-- ==== Sys2Proof/Word.lean ====
section
/-! DEFINITION. The data units of the block: the byte of a byte string (R10), the 32-bit register value `u32` (R9)
and the 128-bit block of GCM read as an integer (R248). -/

namespace Sys2Proof

/-- One 8-bit value of a byte string (R10). -/
abbrev Byte := BitVec 8

/-- A register value, `u32` (R9). -/
abbrev Word := BitVec 32

/-- A byte string: byte 0 first (R10). -/
abbrev Bytes := List Byte

/-- A 16-byte block read as the integer `be(X)` in [0, 2^128) (R248). -/
abbrev Block128 := BitVec 128

end Sys2Proof
end

