-- ==== Sys2Proof/Machine/Bytes.lean ====
section
/-! DEFINITION. Byte strings and their conversions to integers (R10, R11). -/

namespace Sys2Proof.Machine

/-- `zeros(n)` (R10). -/
def zeros (n : Nat) : Bytes := List.replicate n 0

/-- `bs[a ..< b]`, a half-open slice (R10). -/
def slice (bs : Bytes) (a b : Nat) : Bytes := (bs.drop a).take (b - a)

/-- `le(bs)`: the little-endian value (R11). -/
def le : Bytes → Nat
  | [] => 0
  | b :: bs => b.toNat + 256 * le bs

/-- `be(bs)`: the big-endian value (R11). -/
def be (bs : Bytes) : Nat := bs.foldl (fun acc b => 256 * acc + b.toNat) 0

/-- `le_n(x)`: the n-byte little-endian encoding of `x mod 256^n` (R11). -/
def leBytes : Nat → Nat → Bytes
  | 0, _ => []
  | n + 1, x => BitVec.ofNat 8 x :: leBytes n (x / 256)

/-- `be_n(x)`: the n-byte big-endian encoding of `x mod 256^n` (R11). -/
def beBytes (n x : Nat) : Bytes := (leBytes n x).reverse

/-- Bytewise exclusive or; the shorter string sets the length. -/
def xorBytes (x y : Bytes) : Bytes := List.zipWith (· ^^^ ·) x y

/-- The first `k` chunks of `n` bytes; the last one may be shorter. -/
def chunks (n : Nat) : Nat → Bytes → List Bytes
  | 0, _ => []
  | k + 1, bs => bs.take n :: chunks n k (bs.drop n)

end Sys2Proof.Machine
end

