-- ==== Sys2Proof/Syntax.lean ====
section
/-! DEFINITION. What is written to the block: its commands (the rows of spec/opcode_table.json), the command word
format CMDW, the host's bus accesses, and the host notation of R108 and R109. -/

namespace Sys2Proof

/-- The eight commands of R104, one constructor per row of the opcode table. A command has no operand field: its
operands are the six argument registers (R102). -/
inductive Instr where
  | crcInit
  | crcUpdate
  | crcFinalize
  | crcCompute
  | keygen
  | derivePublic
  | encrypt
  | decrypt
deriving DecidableEq, Repr

/-- The one command format CMDW (R100): RSV in bits 31:8, OP in bits 7:0. -/
structure CommandWord where
  rsv : BitVec 24
  op  : BitVec 8
deriving DecidableEq, Repr

/-- The ten registers of the register window (R33). -/
inductive Reg where
  | cmd
  | status
  | result
  | crcState
  | srcAddr
  | srcLen
  | keyAddr
  | keyLen
  | dstAddr
  | dstCap
deriving DecidableEq, Repr

/-- The widths of a host access: the three that R76 names. DESIGN CHOICE (log entry 16): no access of another width is a
term of the model. R77 and U3 name no such access, and by D22 it would be a bus error that changes nothing. -/
inductive Width where
  | w8
  | w16
  | w32
deriving DecidableEq, Repr

/-- What a host access does. A write of 8 or 16 bits carries its data in the low bits of the bus word (R73). -/
inductive BusOp where
  | read
  | write (v : Word)
deriving DecidableEq, Repr

/-- One host bus access: a host bus address, a width, and a read or a write (R76, R110). -/
structure BusAccess where
  addr  : Nat
  width : Width
  op    : BusOp
deriving DecidableEq, Repr

/-- The host notation of R108: one line is one host access, a run of byte accesses, or one polling loop. -/
inductive HostOp where
  | wr (r : Reg) (v : Word)
  | rd (r : Reg)
  | wrb (off : Nat) (bs : Bytes)
  | rdb (off n : Nat)
  | wait
deriving DecidableEq, Repr

/-- The pseudo-instructions of R109. `sealEnv` and `openEnv` stand for the notation's `seal` and `open`. -/
inductive Pseudo where
  | cmd (i : Instr)
  | crcInit
  | crcUpdate (a n : Word)
  | crcFinal
  | crcCompute (a n : Word)
  | keygen (d : Word)
  | derive (k d : Word)
  | sealEnv (s n k d c : Word)
  | openEnv (s n k d c : Word)
  | check
deriving DecidableEq, Repr

end Sys2Proof
end

