-- ==== Sys2Proof/Decode.lean ====
section
/-! DEFINITION. Decoding and encoding of the command word CMDW (R100 to R106). -/

namespace Sys2Proof

/-- Why a word is ILLEGAL: the two bullets of R106. -/
inductive IllegalReason where
  /-- OP is none of the assigned opcodes, and RSV = 0. -/
  | unassignedOpcode
  /-- RSV != 0, whatever OP is. -/
  | reservedBitsSet
deriving DecidableEq, Repr

/-- What the decoder answers: a command, or ILLEGAL (R105) with the reason. -/
inductive Decoded where
  | command (i : Instr)
  | illegal (why : IllegalReason)
deriving DecidableEq, Repr

/-- The two fields of a command word (R100). -/
def fieldsOf (w : Word) : CommandWord where
  rsv := w.extractLsb' 8 24
  op  := w.extractLsb' 0 8

/-- The opcode map of R104: each row matches the whole word. -/
def opcodeMap : List (Word × Instr) :=
  [ (0x00000001, .crcInit),
    (0x00000002, .crcUpdate),
    (0x00000003, .crcFinalize),
    (0x00000004, .crcCompute),
    (0x00000010, .keygen),
    (0x00000011, .derivePublic),
    (0x00000020, .encrypt),
    (0x00000021, .decrypt) ]

/-- `decode(w)` (R105): the row whose match is w, otherwise ILLEGAL. Total on every 32-bit word. -/
def decode (w : Word) : Decoded :=
  match opcodeMap.find? (fun row => row.1 == w) with
  | some row => .command row.2
  | none => if (fieldsOf w).rsv = 0 then .illegal .unassignedOpcode else .illegal .reservedBitsSet

/-- Decoding of a byte string: a command word is four bytes, little-endian on the bus (R73, R110), and a decoder
always consumes one word (R101). `none`: there are not four bytes. -/
def decodeBytes : Bytes → Option (Decoded × Bytes)
  | b0 :: b1 :: b2 :: b3 :: rest => some (decode (BitVec.ofNat 32 (Machine.le [b0, b1, b2, b3])), rest)
  | _ => none

/-- The opcode of a command: the OP column of R104. -/
def opcode : Instr → BitVec 8
  | .crcInit      => 0x01
  | .crcUpdate    => 0x02
  | .crcFinalize  => 0x03
  | .crcCompute   => 0x04
  | .keygen       => 0x10
  | .derivePublic => 0x11
  | .encrypt      => 0x20
  | .decrypt      => 0x21

/-- The word with the given fields: RSV above OP (R100). -/
def CommandWord.toWord (c : CommandWord) : Word := c.rsv ++ c.op

/-- The command word of a command: RSV must be 0 (R100, R104). -/
def encode (i : Instr) : Word := CommandWord.toWord { rsv := 0, op := opcode i }

/-- The command word as the four bytes of its bus transaction (R110). -/
def encodeBytes (i : Instr) : Bytes := Machine.leBytes 4 (encode i).toNat

/-- The command this model's decoder reads from a table word: the word's bytes are laid out little-endian, at least
the four of a command word (the bits above `nbits` are 0), and given to `decodeBytes`. -/
def decodeTableWord (nbits w : Nat) : Option Instr :=
  match decodeBytes (Machine.leBytes (max 4 ((nbits + 7) / 8)) (w % 2 ^ nbits)) with
  | some (.command i, _) => some i
  | _ => none

end Sys2Proof
end

