-- ==== Sys2Proof/Config.lean ====
section
/-! DEFINITION. The implementation parameters of R6 as one record, and the free values: what the spec leaves to
"any value" (U1, U2, U12 of 93_implementation_defined.md) is an opaque constant applied to a counter of State, so
that no proof can see what it is. -/

namespace Sys2Proof

/-- The implementation parameters of R6 (all OPEN in the spec). The record is carried by State and never written
(log entry 1), so that a claim about every state is a claim about every configuration. -/
structure Config where
  /-- BUF_SIZE: the number of bytes of the buffer memory (D4). -/
  bufSize  : Nat
  /-- HKDF_INFO: the domain-separation string, fixed when the block is built (R223, D5). -/
  hkdfInfo : Bytes
  /-- REG_BASE: host bus address of the register window (D3). -/
  regBase  : Nat
  /-- BUF_BASE: host bus address of the buffer window (D3). -/
  bufBase  : Nat
deriving DecidableEq, Repr

/-- The parameter values the spec's own command vectors are computed with (95_test_vectors.md, conventions:
BUF_SIZE = 4096 and HKDF_INFO = "example-info"). The two window bases are of the model's choosing (DESIGN CHOICE, log
entry 2). Only `State.reset` uses it; no statement rests on these values. -/
def Config.vectors : Config where
  bufSize  := 4096
  hkdfInfo := [0x65, 0x78, 0x61, 0x6d, 0x70, 0x6c, 0x65, 0x2d, 0x69, 0x6e, 0x66, 0x6f]
  regBase  := 0x40000000
  bufBase  := 0x40001000

/-- R343, U1: the content of BUF after a reset is any value, a fresh choice for every byte at each reset. First
argument: how many resets the machine has had; second argument: the offset. Free value (log entry 3). -/
opaque Config.bufAfterReset : Nat → Nat → Byte

/-- R137, U12: the entropy oracle's answer to the n-th draw request: `none` is FAIL, otherwise a stream of bytes of
which a draw of n bytes takes the first n. Free value (log entry 4). -/
opaque Config.entropy : Nat → Option (Nat → Byte)

/-- R347, U2: what the n-th host read of BUF made while BUSY = 1 returns. Free value (log entry 5). -/
opaque Config.busyRead : Nat → Word

/-- The identity string of the block (R3). No register reads it back. -/
def Config.identity : String :=
  "TGCEB/TAPGATE-v7: CRC32-IEEE802.3-reflected + X25519-RFC7748 + HKDF-SHA256-RFC5869 + AES-256-GCM(96-bit nonce,128-bit tag)"

end Sys2Proof
end

