-- ==== Sys2Proof/Machine/State.lean ====
section
/-! DEFINITION. The state of the block (R30, R49) as plain data, with the inputs of the agents around it (R8), and
the state after reset (R48, R340). -/

namespace Sys2Proof.Machine

/-- BUF (R45): the bytes stored since the last reset, as (offset, byte) pairs with strictly rising offsets. An offset
that is not listed has no stored byte; the machine reads it as the free value of R343 (`State.bufByte`). -/
abbrev Memory := List Host.Cell

/-- The canonical form of a memory: strictly rising offsets, so no offset is listed twice. -/
abbrev Memory.wf (m : Memory) : Prop := (m.map Prod.fst).Pairwise (· < ·)

/-- SECRETS (R44): the engine's internal key material. No host address reaches it. -/
structure Secrets where
  /-- EPH_SK, 32 bytes: the clamped ephemeral or recipient private scalar. -/
  ephSk : Bytes
  /-- SS, 32 bytes: the raw shared secret. -/
  ss    : Bytes
  /-- PRK, 32 bytes: the HKDF pseudorandom key. -/
  prk   : Bytes
  /-- DK, 32 bytes: the DerivedSymmetricKey. -/
  dk    : Bytes
  /-- RK, 240 bytes: the AES-256 round keys w[0..59]. -/
  rk    : Bytes
  /-- HSUB, 16 bytes: the GHASH subkey H. -/
  hsub  : Bytes
  /-- STAGE, up to BUF_SIZE bytes: the staged text; a byte beyond the end of the list is zero (log entry 6). -/
  stage : Bytes
deriving DecidableEq, Repr

/-- SECRETS with every byte zero (R44, R138). -/
def Secrets.zero : Secrets where
  ephSk := List.replicate 32 0
  ss    := List.replicate 32 0
  prk   := List.replicate 32 0
  dk    := List.replicate 32 0
  rk    := List.replicate 240 0
  hsub  := List.replicate 16 0
  stage := []

/-- An answer the outside gives to one draw (R137): FAIL, or bytes. A draw of n bytes takes exactly n of them
(`Work.nextAnswer`). -/
inductive EntropyAnswer where
  | fail
  | bytes (bs : Bytes)
deriving DecidableEq, Repr

/-- Whose turn it is in the one total order of R85: a host access, the engine's completion step, or a reset. The
interleaving is data, so every interleaving is some state's agenda (U14, log entry 7). -/
inductive Turn where
  | host (a : BusAccess)
  | engine
  | reset
deriving DecidableEq, Repr

/-- What the last host access got back on the bus. -/
inductive BusReply where
  /-- No access has been answered yet. -/
  | idle
  /-- A read of the given width returned the value. -/
  | readData (w : Width) (v : Word)
  /-- A write was taken from the bus: stored, dropped (R346) or ignored (R43). -/
  | writeTaken
deriving DecidableEq, Repr

/-- The error codes of R311 other than OK; their numbers are `ErrorCode.code`. -/
inductive ErrorCode where
  | invalidKeyLength
  | invalidPeerPoint
  | bufferTooSmall
  | malformedEnvelope
  | authenticationFailed
  | randomSourceFailure
  | illegalCommand
  | addressRange
deriving DecidableEq, Repr

/-- The state of the block. The first fourteen fields after `config` are the record of R49; `secrets` is the rest of
R30; the last six are the model's own: the inputs of the other agents and the counters of the free values. -/
structure State where
  /-- The parameters of R6. No step writes this field (log entry 1). -/
  config   : Config
  /-- CMD (R34): the last accepted command word. -/
  cmd      : Word
  /-- STATUS.BUSY (R36). -/
  busy     : Bool
  /-- STATUS.HAZARD (R37). -/
  hazard   : Bool
  /-- STATUS.RNG_FAIL (R38). -/
  rngFail  : Bool
  /-- STATUS.ERR (R39). -/
  err      : Byte
  /-- RESULT (R40). -/
  result   : Word
  /-- CRC_STATE (R41). -/
  crcState : Word
  /-- SRC_ADDR (R42). -/
  srcAddr  : Word
  /-- SRC_LEN (R42). -/
  srcLen   : Word
  /-- KEY_ADDR (R42). -/
  keyAddr  : Word
  /-- KEY_LEN (R42). -/
  keyLen   : Word
  /-- DST_ADDR (R42). -/
  dstAddr  : Word
  /-- DST_CAP (R42). -/
  dstCap   : Word
  /-- BUF (R45). -/
  buf      : Memory
  /-- SECRETS (R44). -/
  secrets  : Secrets
  /-- The turns still to come, first one first (R85). When none is left the engine has the turn (R140). -/
  agenda   : List Turn
  /-- The answer to the last host access. -/
  reply    : BusReply
  /-- Answers the outside has lined up for the next draws; when none is left a draw gets the free value
  `Config.entropy` (R137, log entry 4). -/
  entropy  : List EntropyAnswer
  /-- How many draws the oracle has answered: the counter of `Config.entropy`. -/
  draws    : Nat
  /-- How many BUF reads were made while BUSY = 1: the counter of `Config.busyRead`. -/
  busyReads : Nat
  /-- How many resets there have been: the counter of `Config.bufAfterReset`. -/
  resets   : Nat
deriving DecidableEq, Repr

/-- Why a step stops with a fault. -/
inductive Fault where
  /-- Raised by a host access that breaks R76 (an 8- or 16-bit register access, a misaligned access, an access that
  crosses the end of the buffer window): R77 says a model treats a bus error as a fault of the host's access step.
  Safe: the hardware goes on with its state unchanged, the model proves nothing beyond it. -/
  | busError
deriving DecidableEq, Repr

/-- Why a step has no meaning. -/
inductive Refusal where
  /-- An instruction whose meaning is not written yet. No arm of `exec` raises it. Safe. -/
  | notModelled (mnemonic : String)
  /-- Raised by a host access whose address is in neither window: R80 says that no rule of the spec applies to it, and
  U4 says a model refuses. Safe. -/
  | outsideWindows
deriving DecidableEq, Repr

/-- What `Exec` returns (R132): the writes, the result word and the new CRC_STATE if any; or an error. -/
inductive ExecOutcome where
  | ok (writes : List (Nat × Bytes)) (res : Word) (crc : Option Word)
  | err (e : ErrorCode)
deriving DecidableEq, Repr

/-- What `Exec` works on besides the registers: SECRETS, the oracle's side, and the `rngFailed` flag of R137. -/
structure Work where
  secrets   : Secrets
  entropy   : List EntropyAnswer
  draws     : Nat
  rngFailed : Bool
deriving DecidableEq, Repr

/-- The outcome of `Exec` with what it left behind. -/
structure ExecResult where
  outcome : ExecOutcome
  work    : Work
deriving DecidableEq, Repr

/-- The values of R48 for a configuration. BUF lists nothing: every byte is the free value of R343. The model's own
fields start empty and at zero (DESIGN CHOICE, log entry 8). -/
def State.resetWith (c : Config) : State where
  config   := c
  cmd      := 0x00000000
  busy     := false
  hazard   := false
  rngFail  := false
  err      := 0x00
  result   := 0x00000000
  crcState := 0xFFFFFFFF
  srcAddr  := 0x00000000
  srcLen   := 0x00000000
  keyAddr  := 0x00000000
  keyLen   := 0x00000000
  dstAddr  := 0x00000000
  dstCap   := 0x00000000
  buf      := []
  secrets  := Secrets.zero
  agenda   := []
  reply    := .idle
  entropy  := []
  draws    := 0
  busyReads := 0
  resets   := 0

/-- The machine right after reset (R48), with the parameters of the spec's own vectors (log entry 2). -/
def State.reset : State := State.resetWith Config.vectors

end Sys2Proof.Machine
end

