-- ==== Sys2Proof/Machine/Flags.lean ====
section
/-! DEFINITION. The status fields (R35, R47) and the completion codes (R311). -/

namespace Sys2Proof.Machine

/-- The number of an error code (R311). -/
def ErrorCode.code : ErrorCode → Byte
  | .invalidKeyLength     => 0x01
  | .invalidPeerPoint     => 0x02
  | .bufferTooSmall       => 0x03
  | .malformedEnvelope    => 0x04
  | .authenticationFailed => 0x05
  | .randomSourceFailure  => 0x06
  | .illegalCommand       => 0x10
  | .addressRange         => 0x11

/-- The completion codes of R311; every other value of ERR is reserved and never written. -/
def completionCodes : List Byte := [0x00, 0x01, 0x02, 0x03, 0x04, 0x05, 0x06, 0x10, 0x11]

/-- What a read of STATUS returns (R35, R49): ERR in bits 15:8, RNG_FAIL in bit 2, HAZARD in bit 1, BUSY in bit 0,
every other bit 0. -/
def State.statusWord (s : State) : Word :=
  (s.err.setWidth 32 <<< 8) ||| (if s.rngFail then 4 else 0) ||| (if s.hazard then 2 else 0) |||
    (if s.busy then 1 else 0)

/-- A host write of v to STATUS (R35): bit 1 set clears HAZARD, every other bit is ignored. -/
def State.writeStatus (s : State) (v : Word) : State :=
  { s with hazard := s.hazard && !v.getLsbD 1 }

/-- A write dropped because BUSY = 1 sets HAZARD and changes nothing else (R37, R346). -/
def State.setHazard (s : State) : State := { s with hazard := true }

/-- RNG_FAIL is sticky: a completion step in which a draw failed sets it, none clears it (R38). -/
def State.latchRngFail (s : State) (failed : Bool) : State := { s with rngFail := s.rngFail || failed }

end Sys2Proof.Machine
end

