-- ==== Sys2Proof/Machine/Ops.lean ====
section
/-! DEFINITION. The shared operations: BUF and registers, the entropy draw, the completion of a command (what stands
in this block where a processor takes an exception: R310, R312, R317) and reset. -/

namespace Sys2Proof.Machine

/-! ### BUF -/

/-- The stored byte at an offset, if there is one. -/
def Memory.get? : Memory → Nat → Option Byte
  | [], _ => none
  | (b, v) :: m, a => if a = b then some v else Memory.get? m a

/-- Store one byte, keeping the offsets strictly rising. -/
def Memory.set : Memory → Nat → Byte → Memory
  | [], a, v => [(a, v)]
  | (b, w) :: m, a, v =>
    if a < b then (a, v) :: (b, w) :: m
    else if a = b then (a, v) :: m
    else (b, w) :: Memory.set m a v

/-- Store a byte string from an offset on. -/
def Memory.setBytes : Memory → Nat → Bytes → Memory
  | m, _, [] => m
  | m, a, v :: vs => Memory.setBytes (Memory.set m a v) (a + 1) vs

/-- The byte BUF[a]: the stored one, and where nothing has been stored since the last reset the free value of R343. -/
def State.bufByte (s : State) (a : Nat) : Byte :=
  (s.buf.get? a).getD (Config.bufAfterReset s.resets a)

/-- `MemRead(a, n)` (R82). -/
def State.memRead (s : State) (a : Nat) : Nat → Bytes
  | 0 => []
  | n + 1 => s.bufByte a :: State.memRead s (a + 1) n

/-- `MemWrite(a, len(v), v)` (R82). -/
def State.memWrite (s : State) (a : Nat) (v : Bytes) : State := { s with buf := s.buf.setBytes a v }

/-! ### Registers (R33) -/

/-- The offset of a register in the register window (R33). -/
def regOffset : Reg → Nat
  | .cmd      => 0x00
  | .status   => 0x04
  | .result   => 0x08
  | .crcState => 0x0C
  | .srcAddr  => 0x10
  | .srcLen   => 0x14
  | .keyAddr  => 0x18
  | .keyLen   => 0x1C
  | .dstAddr  => 0x20
  | .dstCap   => 0x24

/-- The register at an offset of the register window; `none` at a reserved offset (R33, R43). -/
def regAt (off : Nat) : Option Reg :=
  [Reg.cmd, .status, .result, .crcState, .srcAddr, .srcLen, .keyAddr, .keyLen, .dstAddr, .dstCap].find?
    (fun r => regOffset r == off)

/-- The value a host reads from a register (R34 to R42, R348); no read has a side effect (R79). -/
def State.readReg (s : State) : Reg → Word
  | .cmd      => s.cmd
  | .status   => s.statusWord
  | .result   => s.result
  | .crcState => s.crcState
  | .srcAddr  => s.srcAddr
  | .srcLen   => s.srcLen
  | .keyAddr  => s.keyAddr
  | .keyLen   => s.keyLen
  | .dstAddr  => s.dstAddr
  | .dstCap   => s.dstCap

/-- An accepted CMD write issues the command w (R34, R130). -/
def State.issue (s : State) (w : Word) : State := { s with cmd := w, busy := true }

/-- A host write to a register while BUSY = 0 (R356). -/
def State.writeRegIdle (s : State) (r : Reg) (v : Word) : State :=
  match r with
  | .cmd      => s.issue v
  | .status   => s.writeStatus v
  | .result   => s
  | .crcState => { s with crcState := v }
  | .srcAddr  => { s with srcAddr := v }
  | .srcLen   => { s with srcLen := v }
  | .keyAddr  => { s with keyAddr := v }
  | .keyLen   => { s with keyLen := v }
  | .dstAddr  => { s with dstAddr := v }
  | .dstCap   => { s with dstCap := v }

/-- A host write to a register while BUSY = 1 (R346, R356): STATUS is written as when idle, RESULT ignores the write,
every other register drops it and HAZARD is set. -/
def State.writeRegBusy (s : State) (r : Reg) (v : Word) : State :=
  match r with
  | .status   => s.writeStatus v
  | .result   => s
  | .cmd      => s.setHazard
  | .crcState => s.setHazard
  | .srcAddr  => s.setHazard
  | .srcLen   => s.setHazard
  | .keyAddr  => s.setHazard
  | .keyLen   => s.setHazard
  | .dstAddr  => s.setHazard
  | .dstCap   => s.setHazard

/-- A host write to a register. -/
def State.writeReg (s : State) (r : Reg) (v : Word) : State :=
  if s.busy then s.writeRegBusy r v else s.writeRegIdle r v

/-! ### Entropy (R137) -/

/-- What `Exec` starts from. -/
def State.work (s : State) : Work where
  secrets   := s.secrets
  entropy   := s.entropy
  draws     := s.draws
  rngFailed := false

/-- An answer of exactly n bytes: the first n of the bytes given, and zeros where there are fewer (log entry 4). -/
def fitBytes (n : Nat) (bs : Bytes) : Bytes := (bs ++ zeros n).take n

/-- The oracle's answer to a request for n bytes: the one lined up, or the free value. -/
def Work.nextAnswer (w : Work) (n : Nat) : Option Bytes :=
  match w.entropy with
  | .fail :: _     => none
  | .bytes bs :: _ => some (fitBytes n bs)
  | []             => (Config.entropy w.draws).map fun stream => (List.range n).map stream

/-- The oracle has answered one request. -/
def Work.advance (w : Work) : Work := { w with entropy := w.entropy.tail, draws := w.draws + 1 }

/-- `draw(n)` (R137): with RNG_FAIL = 1 no request reaches the oracle and the draw fails; otherwise the oracle
answers, and FAIL sets `rngFailed`. -/
def Work.draw (w : Work) (rngFail : Bool) (n : Nat) : Option Bytes × Work :=
  if rngFail then (none, w)
  else
    match w.nextAnswer n with
    | some bs => (some bs, w.advance)
    | none    => (none, { w.advance with rngFailed := true })

/-! ### Completion (R131) -/

/-- `raise e` inside `Exec` (R12, R310). -/
def ExecResult.raise (e : ErrorCode) (w : Work) : ExecResult where
  outcome := .err e
  work    := w

/-- `Ok(writes, res, crc)` (R132). -/
def ExecResult.success (writes : List (Nat × Bytes)) (res : Word) (crc : Option Word) (w : Work) : ExecResult where
  outcome := .ok writes res crc
  work    := w

/-- Take over what `Exec` left in SECRETS and on the oracle's side. -/
def State.takeWork (s : State) (w : Work) : State :=
  { s with secrets := w.secrets, entropy := w.entropy, draws := w.draws }

/-- The `match o with` of R131: the writes in order, CRC_STATE if given, RESULT and ERR; on an error RESULT is 0, ERR
the code, and neither BUF nor CRC_STATE changes (R312). -/
def State.applyOutcome (s : State) (o : ExecOutcome) : State :=
  match o with
  | .ok writes res crc =>
    { s with
      buf      := writes.foldl (fun m w => m.setBytes w.1 w.2) s.buf
      crcState := crc.getD s.crcState
      result   := res
      err      := 0x00 }
  | .err e => { s with result := 0x00000000, err := e.code }

/-- `SECRETS <- all zero` (R138). -/
def State.zeroSecrets (s : State) : State := { s with secrets := Secrets.zero }

/-- `reg[STATUS].BUSY <- 0` (R36). -/
def State.clearBusy (s : State) : State := { s with busy := false }

/-- The completion step of R131, given what `Exec` returned: one indivisible transition (R86). -/
def State.complete (s : State) (r : ExecResult) : State :=
  ((((s.takeWork r.work).latchRngFail r.work.rngFailed).applyOutcome r.outcome).zeroSecrets).clearBusy

/-- The completion of an ILLEGAL word (R106): IllegalCommand, and no other effect. -/
def State.completeIllegal (s : State) : State := s.complete (.raise .illegalCommand s.work)

/-! ### Reset -/

/-- Reset (R340, R341): the values of R48, BUF any value (the next resets' free value, R343), the pending command
abandoned. The configuration and what stands outside the block (the agenda, the last bus answer, the oracle's side)
stay. -/
def State.resetStep (s : State) : State :=
  { State.resetWith s.config with
    agenda    := s.agenda
    reply     := s.reply
    entropy   := s.entropy
    draws     := s.draws
    busyReads := s.busyReads
    resets    := s.resets + 1 }

end Sys2Proof.Machine
end

