-- ==== Sys2Proof/Machine/Bus.lean ====
section
/-! DEFINITION. The host's bus accesses (R70, R73, R76 to R80, R346 to R348, R356). -/

namespace Sys2Proof.Machine

/-- The number of bytes of a width. -/
def widthBytes : Width → Nat
  | .w8  => 1
  | .w16 => 2
  | .w32 => 4

/-- The size of the register window (R33). -/
def regWindowSize : Nat := 256

/-- Where an access goes. -/
inductive BusTarget where
  /-- A legal register access, at this offset of the register window. -/
  | register (off : Nat)
  /-- A legal access to the buffer window, at this offset of BUF. -/
  | buffer (off : Nat)
  /-- An access to one of the windows that breaks R76. -/
  | illegal
  /-- An address in neither window (R80). -/
  | outside
deriving DecidableEq, Repr

/-- The access legality of R76: in the register window 32-bit accesses at offsets that are multiples of 4; in the
buffer window accesses aligned to their size that end inside it. -/
def busTarget (c : Config) (a : BusAccess) : BusTarget :=
  if c.regBase ≤ a.addr ∧ a.addr < c.regBase + regWindowSize then
    if a.width = .w32 ∧ (a.addr - c.regBase) % 4 = 0 then .register (a.addr - c.regBase) else .illegal
  else if c.bufBase ≤ a.addr ∧ a.addr < c.bufBase + c.bufSize then
    if (a.addr - c.bufBase) % widthBytes a.width = 0 ∧ a.addr - c.bufBase + widthBytes a.width ≤ c.bufSize then
      .buffer (a.addr - c.bufBase)
    else .illegal
  else .outside

/-- A host read at an offset of the register window: a reserved offset reads 0 (R43). -/
def State.busReadReg (s : State) (off : Nat) : State :=
  { s with reply := .readData .w32 (match regAt off with
                                    | some r => s.readReg r
                                    | none   => 0) }

/-- A host write at an offset of the register window: at a reserved offset it is ignored (R43). -/
def State.busWriteReg (s : State) (off : Nat) (v : Word) : State :=
  { (match regAt off with
     | some r => s.writeReg r v
     | none   => s) with reply := .writeTaken }

/-- The value of BUF[off ..< off+w], little-endian (R73). -/
def State.bufValue (s : State) (off : Nat) (w : Width) : Word := BitVec.ofNat 32 (le (s.memRead off (widthBytes w)))

/-- A value cut to an access width. -/
def truncateTo (w : Width) (v : Word) : Word := BitVec.ofNat 32 (v.toNat % 256 ^ widthBytes w)

/-- A host read of BUF: the stored bytes, or any value of the access width while BUSY = 1 (R347). -/
def State.busReadBuf (s : State) (off : Nat) (w : Width) : State :=
  if s.busy then
    { s with reply := .readData w (truncateTo w (Config.busyRead s.busyReads)), busyReads := s.busyReads + 1 }
  else { s with reply := .readData w (s.bufValue off w) }

/-- A host write of BUF: stored little-endian, or dropped with HAZARD set while BUSY = 1 (R73, R346). -/
def State.busWriteBuf (s : State) (off : Nat) (w : Width) (v : Word) : State :=
  { (if s.busy then s.setHazard else s.memWrite off (leBytes (widthBytes w) v.toNat)) with reply := .writeTaken }

/-- One host access (R356). -/
def hostAccess (a : BusAccess) (s : State) : Host.Outcome State Fault Refusal :=
  match busTarget s.config a, a.op with
  | .register off, .read    => .next (s.busReadReg off)
  | .register off, .write v => .next (s.busWriteReg off v)
  | .buffer off,   .read    => .next (s.busReadBuf off a.width)
  | .buffer off,   .write v => .next (s.busWriteBuf off a.width v)
  | .illegal,      _        => .fault .busError
  | .outside,      _        => .refused .outsideWindows

end Sys2Proof.Machine
end

