-- ==== Sys2Proof/Machine/Operands.lean ====
section
/-! DEFINITION. Operand regions (R81, R102, R103, R133) and the common argument checks (R135). -/

namespace Sys2Proof.Machine

/-- `valid(a, n)`: the region lies inside BUF, computed over naturals without wrap-around (R81). -/
def State.valid (s : State) (a n : Nat) : Bool := decide (a + n ≤ s.config.bufSize)

/-- `N = zext(reg[SRC_LEN])` (R133). -/
def State.srcN (s : State) : Nat := s.srcLen.toNat

/-- The offset of srcR (R133). -/
def State.srcAt (s : State) : Nat := s.srcAddr.toNat

/-- The offset of keyR, whose length is 32 (R133). -/
def State.keyAt (s : State) : Nat := s.keyAddr.toNat

/-- The offset of dstR (R133). -/
def State.dstAt (s : State) : Nat := s.dstAddr.toNat

/-- `outlen` (R103, R133). A command without a destination has none, and 0 stands for it; for DECRYPT it is used only
once N >= 60 has been checked (R14). -/
def outlen (i : Instr) (s : State) : Nat :=
  match i with
  | .crcInit      => 0
  | .crcUpdate    => 0
  | .crcFinalize  => 0
  | .crcCompute   => 0
  | .keygen       => 64
  | .derivePublic => 32
  | .encrypt      => s.srcN + 60
  | .decrypt      => s.srcN - 60

/-- The commands that read srcR (R135 step 4, R103). -/
def readsSrc : Instr → Bool
  | .crcInit      => false
  | .crcUpdate    => true
  | .crcFinalize  => false
  | .crcCompute   => true
  | .keygen       => false
  | .derivePublic => false
  | .encrypt      => true
  | .decrypt      => true

/-- The commands that read keyR (R135 steps 2 and 5, R103). -/
def readsKey : Instr → Bool
  | .crcInit      => false
  | .crcUpdate    => false
  | .crcFinalize  => false
  | .crcCompute   => false
  | .keygen       => false
  | .derivePublic => true
  | .encrypt      => true
  | .decrypt      => true

/-- The commands that write dstR (R135 steps 3 and 6, R103). -/
def writesDst : Instr → Bool
  | .crcInit      => false
  | .crcUpdate    => false
  | .crcFinalize  => false
  | .crcCompute   => false
  | .keygen       => true
  | .derivePublic => true
  | .encrypt      => true
  | .decrypt      => true

/-- The argument checks of R135, in its order; `none` when every step that applies passes. A register that no step
names for the command is never looked at (R107). -/
def prologue (i : Instr) (s : State) : Option ErrorCode :=
  if i == .decrypt && !decide (60 ≤ s.srcN) then some .malformedEnvelope
  else if readsKey i && !decide (s.keyLen.toNat = 32) then some .invalidKeyLength
  else if writesDst i && !decide (outlen i s ≤ s.dstCap.toNat) then some .bufferTooSmall
  else if readsSrc i && !s.valid s.srcAt s.srcN then some .addressRange
  else if readsKey i && !s.valid s.keyAt 32 then some .addressRange
  else if writesDst i && !s.valid s.dstAt (outlen i s) then some .addressRange
  else none

/-- Run the prologue, then the command's own part. -/
def afterPrologue (i : Instr) (s : State) (body : ExecResult) : ExecResult :=
  match prologue i s with
  | some e => .raise e s.work
  | none   => body

/-- The source operand: `MemRead(zext(reg[SRC_ADDR]), N)`. -/
def State.srcBytes (s : State) : Bytes := s.memRead s.srcAt s.srcN

/-- The key operand: `MemRead(zext(reg[KEY_ADDR]), 32)`, a copy (R83). -/
def State.keyBytes (s : State) : Bytes := s.memRead s.keyAt 32

end Sys2Proof.Machine
end

