-- ==== Sys2Proof/Machine/Crc.lean ====
section
/-! DEFINITION. The CRC-32 family (R150 to R160). -/

namespace Sys2Proof.Machine

/-- `INIT` (R150). -/
def crcInitValue : Word := 0xFFFFFFFF

/-- One bit of the table's derivation (R151): a logical right shift, with the reflected polynomial when bit 0 was 1. -/
def crcShift (c : Word) : Word := if c.getLsbD 0 then (c >>> 1) ^^^ 0xEDB88320 else c >>> 1

/-- `CRC_TABLE[i]` (R151): eight such steps from i. -/
def crcTable (i : Word) : Word := Nat.iterate crcShift 8 i

/-- One byte (R152). -/
def crcByte (st : Word) (b : Byte) : Word :=
  (st >>> 8) ^^^ crcTable ((st ^^^ b.setWidth 32) &&& 0xFF)

/-- `crc32_update` (R152): the left fold of the byte step. -/
def crc32Update (st : Word) (chunk : Bytes) : Word := chunk.foldl crcByte st

/-- `crc32_finalize` (R153). -/
def crc32Finalize (st : Word) : Word := st ^^^ 0xFFFFFFFF

/-- `crc32_compute` (R154). -/
def crc32Compute (data : Bytes) : Word := crc32Finalize (crc32Update crcInitValue data)

/-- `ExecCrcInit` (R157). -/
def crcInitBody (s : State) : ExecResult :=
  afterPrologue .crcInit s (.success [] 0x00000000 (some crcInitValue) s.work)

/-- `ExecCrcUpdate` (R158). -/
def crcUpdateBody (s : State) : ExecResult :=
  afterPrologue .crcUpdate s (.success [] 0x00000000 (some (crc32Update s.crcState s.srcBytes)) s.work)

/-- `ExecCrcFinalize` (R159). -/
def crcFinalizeBody (s : State) : ExecResult :=
  afterPrologue .crcFinalize s (.success [] (crc32Finalize s.crcState) none s.work)

/-- `ExecCrcCompute` (R160). -/
def crcComputeBody (s : State) : ExecResult :=
  afterPrologue .crcCompute s (.success [] (crc32Compute s.srcBytes) none s.work)

/-- CRC_INIT (R157), run to its completion (R131). -/
def execCrcInit (s : State) : Host.Outcome State Fault Refusal := .next (s.complete (crcInitBody s))

/-- CRC_UPDATE (R158), run to its completion (R131). -/
def execCrcUpdate (s : State) : Host.Outcome State Fault Refusal := .next (s.complete (crcUpdateBody s))

/-- CRC_FINALIZE (R159), run to its completion (R131). -/
def execCrcFinalize (s : State) : Host.Outcome State Fault Refusal := .next (s.complete (crcFinalizeBody s))

/-- CRC_COMPUTE (R160), run to its completion (R131). -/
def execCrcCompute (s : State) : Host.Outcome State Fault Refusal := .next (s.complete (crcComputeBody s))

end Sys2Proof.Machine
end

