-- ==== Sys2Proof/Machine/Aes.lean ====
section
/-! DEFINITION. The AES-256 forward cipher (R240 to R247). A block is 16 bytes in the order of R242: byte `r + 4c` is
`s[r][c]`. A round-key word is its 4 bytes. -/

namespace Sys2Proof.Machine

/-- `xtime(b)` (R240). -/
def xtime (b : Byte) : Byte := (b <<< 1) ^^^ (if b.getLsbD 7 then 0x1B else 0)

/-- Multiplication by 3 (R240). -/
def times3 (b : Byte) : Byte := xtime b ^^^ b

/-- Multiplication in GF(2^8), bit by bit from bit 7 of `b` down (R240): `acc` is doubled by xtime at each bit. -/
def gf8MulLoop (a b : Byte) : Nat → Byte → Byte
  | 0, acc => acc
  | n + 1, acc => gf8MulLoop a b n (xtime acc ^^^ (if b.getLsbD n then a else 0))

/-- The product of two bytes as polynomials modulo 0x11B (R240). -/
def gf8Mul (a b : Byte) : Byte := gf8MulLoop a b 8 0

/-- `affine(b)` of the S-box's definition (R241). -/
def sboxAffine (b : Byte) : Byte :=
  b ^^^ b.rotateLeft 1 ^^^ b.rotateLeft 2 ^^^ b.rotateLeft 3 ^^^ b.rotateLeft 4 ^^^ 0x63

/-- The rows of the S-box table (R241): row = high nibble, the 16 columns of a row as one number, column 0 first. -/
def sboxRows : List Nat :=
  [0x637c777bf26b6fc53001672bfed7ab76, 0xca82c97dfa5947f0add4a2af9ca472c0,
   0xb7fd9326363ff7cc34a5e5f171d83115, 0x04c723c31896059a071280e2eb27b275] ++
  [0x09832c1a1b6e5aa0523bd6b329e32f84, 0x53d100ed20fcb15b6acbbe394a4c58cf,
   0xd0efaafb434d338545f9027f503c9fa8, 0x51a3408f929d38f5bcb6da2110fff3d2] ++
  [0xcd0c13ec5f974417c4a77e3d645d1973, 0x60814fdc222a908846eeb814de5e0bdb,
   0xe0323a0a4906245cc2d3ac629195e479, 0xe7c8376d8dd54ea96c56f4ea657aae08] ++
  [0xba78252e1ca6b4c6e8dd741f4bbd8b8a, 0x703eb5664803f60e613557b986c11d9e,
   0xe1f8981169d98e949b1e87e9ce5528df, 0x8ca1890dbfe6426841992d0fb054bb16]

/-- `SBOX[a]` (R241). -/
def sbox (a : Byte) : Byte :=
  BitVec.ofNat 8 (sboxRows.getD (a.toNat / 16) 0 >>> (8 * (15 - a.toNat % 16)))

/-- `SubWord` (R243). -/
def subWord (w : Bytes) : Bytes := w.map sbox

/-- `RotWord([a0,a1,a2,a3]) = [a1,a2,a3,a0]` (R243). -/
def rotWord (w : Bytes) : Bytes := w.drop 1 ++ w.take 1

/-- `Rcon[j] = [rc_j, 00, 00, 00]` with rc_1 = 0x01 and rc_j = xtime(rc_(j-1)) (R244). -/
def rcon (j : Nat) : Bytes := Nat.iterate xtime (j - 1) 0x01 :: zeros 3

/-- The next round-key word, index i, from the words before it, newest first (R243). -/
def nextKeyWord (i : Nat) (ws : List Bytes) : Bytes :=
  let temp := ws.getD 0 []
  let temp' :=
    if i % 8 = 0 then xorBytes (subWord (rotWord temp)) (rcon (i / 8))
    else if i % 8 = 4 then subWord temp
    else temp
  xorBytes (ws.getD 7 []) temp'

/-- Extend the round-key words (newest first) by the words i, i+1, ..., n of them (R243). -/
def extendKey : Nat → Nat → List Bytes → List Bytes
  | 0, _, ws => ws
  | n + 1, i, ws => extendKey n (i + 1) (nextKeyWord i ws :: ws)

/-- The key expansion of a 32-byte key into the 60 words w[0..59] (R243). -/
def keyExpansion (key : Bytes) : List Bytes := (extendKey 52 8 (chunks 4 8 key).reverse).reverse

/-- `SubBytes` (R245). -/
def subBytes (s : Bytes) : Bytes := s.map sbox

/-- `ShiftRows` (R245): `s[r][c] <- s[r][(c + r) mod 4]`, where byte j holds row j mod 4 of column j div 4. -/
def shiftRows (s : Bytes) : Bytes :=
  (List.range 16).map fun j => s.getD (j % 4 + 4 * ((j / 4 + j % 4) % 4)) 0

/-- `MixColumns` of one column (R245). -/
def mixColumn (a0 a1 a2 a3 : Byte) : Bytes :=
  [ xtime a0 ^^^ times3 a1 ^^^ a2 ^^^ a3,
    a0 ^^^ xtime a1 ^^^ times3 a2 ^^^ a3,
    a0 ^^^ a1 ^^^ xtime a2 ^^^ times3 a3,
    times3 a0 ^^^ a1 ^^^ a2 ^^^ xtime a3 ]

/-- `MixColumns` (R245). -/
def mixColumns (s : Bytes) : Bytes :=
  (List.range 4).flatMap fun c =>
    mixColumn (s.getD (4 * c) 0) (s.getD (4 * c + 1) 0) (s.getD (4 * c + 2) 0) (s.getD (4 * c + 3) 0)

/-- `AddRoundKey(n)` (R245). -/
def addRoundKey (w : List Bytes) (n : Nat) (s : Bytes) : Bytes := xorBytes s (((w.drop (4 * n)).take 4).flatten)

/-- Rounds n, n+1, ..., `k` of them, of the form SubBytes, ShiftRows, MixColumns, AddRoundKey (R246). -/
def aesRounds (w : List Bytes) : Nat → Nat → Bytes → Bytes
  | 0, _, s => s
  | k + 1, n, s => aesRounds w k (n + 1) (addRoundKey w n (mixColumns (shiftRows (subBytes s))))

/-- The cipher with expanded round keys (R246). -/
def aesCipher (w : List Bytes) (input : Bytes) : Bytes :=
  addRoundKey w 14 (shiftRows (subBytes (aesRounds w 13 1 (addRoundKey w 0 input))))

/-- `AES256(key, in)` (R246). -/
def aes256 (key input : Bytes) : Bytes := aesCipher (keyExpansion key) input

end Sys2Proof.Machine
end

