-- ==== Sys2Proof/Machine/Gcm.lean ====
section
/-! DEFINITION. GCM with a 12-byte IV and a 16-byte tag (R248 to R253). -/

namespace Sys2Proof.Machine

/-- A 16-byte block as the integer `be(X)` (R248). -/
def toBlock (x : Bytes) : Block128 := BitVec.ofNat 128 (be x)

/-- `be_16` of a block. -/
def ofBlock (x : Block128) : Bytes := beBytes 16 x.toNat

/-- Multiplication by x, the `V` step of gfmul (R248). -/
def gfShift (v : Block128) : Block128 :=
  if v.getLsbD 0 then (v >>> 1) ^^^ 0xE1000000000000000000000000000000 else v >>> 1

/-- The iterations of gfmul for the n lowest bits of X, highest first: bit n-1 is bit `127 - i` of R248. -/
def gfmulLoop (x : Block128) : Nat → Block128 → Block128 → Block128
  | 0, z, _ => z
  | n + 1, z, v => gfmulLoop x n (if x.getLsbD n then z ^^^ v else z) (gfShift v)

/-- `gfmul(X, Y)` (R248). -/
def gfmul (x y : Block128) : Block128 := gfmulLoop x 128 0 y

/-- `GHASH_H(X)` for X of a length that is a multiple of 16 (R249). -/
def ghash (h x : Bytes) : Bytes :=
  ofBlock ((chunks 16 (x.length / 16) x).foldl (fun y b => gfmul (y ^^^ toBlock b) (toBlock h)) 0)

/-- `inc32(X)` (R250). -/
def inc32 (x : Bytes) : Bytes := slice x 0 12 ++ beBytes 4 ((be (slice x 12 16) + 1) % 2 ^ 32)

/-- The output blocks of counter mode from the counter block `cb` on, under the block cipher `E` (R250). A partial
last block is xored with the first bytes of its cipher block. -/
def gctrBlocks (E : Bytes → Bytes) : Bytes → List Bytes → Bytes
  | _, [] => []
  | cb, x :: xs => xorBytes x (E cb) ++ gctrBlocks E (inc32 cb) xs

/-- `GCTR_K(ICB, X)` with `E = AES256(K, ·)` (R250). -/
def gctr (E : Bytes → Bytes) (icb x : Bytes) : Bytes := gctrBlocks E icb (chunks 16 ((x.length + 15) / 16) x)

/-- J0 for a 12-byte IV (R251). -/
def gcmJ0 (iv : Bytes) : Bytes := iv ++ [0x00, 0x00, 0x00, 0x01]

/-- The hash subkey H (R251). -/
def gcmH (E : Bytes → Bytes) : Bytes := E (zeros 16)

/-- The zero bytes that make a length a multiple of 16 (R252). -/
def pad16 (x : Bytes) : Bytes := zeros ((16 - x.length % 16) % 16)

/-- S (R252, R253). -/
def gcmS (E : Bytes → Bytes) (c a : Bytes) : Bytes :=
  ghash (gcmH E)
    (a ++ pad16 a ++ c ++ pad16 c ++ beBytes 8 (8 * a.length) ++ beBytes 8 (8 * c.length))

/-- T (R252), and T' (R253). -/
def gcmTag (E : Bytes → Bytes) (iv c a : Bytes) : Bytes := gctr E (gcmJ0 iv) (gcmS E c a)

/-- The text under counter mode from inc32(J0) on (R252, R253): the same map encrypts and decrypts. -/
def gcmText (E : Bytes → Bytes) (iv x : Bytes) : Bytes := gctr E (inc32 (gcmJ0 iv)) x

/-- `GCM_AE(K, IV, P, A)` (R252): the ciphertext and the tag. -/
def gcmAE (k iv p a : Bytes) : Bytes × Bytes :=
  let c := gcmText (aes256 k) iv p
  (c, gcmTag (aes256 k) iv c a)

/-- `GCM_AD(K, IV, C, A, T)` (R253): the plaintext, or `none` for FAIL. -/
def gcmAD (k iv c a t : Bytes) : Option Bytes :=
  if gcmTag (aes256 k) iv c a = t then some (gcmText (aes256 k) iv c) else none

end Sys2Proof.Machine
end

