-- ==== Sys2Proof/Machine/Sha256.lean ====
section
/-! DEFINITION. SHA-256, HMAC-SHA256 and HKDF-SHA256 (R210 to R222). -/

namespace Sys2Proof.Machine

/-! ### SHA-256 -/

/-- `ROTR^n` of a 32-bit word (R210, R213). -/
def rotr (n : Nat) (x : Word) : Word := (x >>> n) ||| (x <<< (32 - n))

/-- `Ch` (R210). -/
def shaCh (x y z : Word) : Word := (x &&& y) ^^^ (~~~x &&& z)

/-- `Maj` (R210). -/
def shaMaj (x y z : Word) : Word := (x &&& y) ^^^ (x &&& z) ^^^ (y &&& z)

/-- `Σ0` (R210). -/
def bigSigma0 (x : Word) : Word := rotr 2 x ^^^ rotr 13 x ^^^ rotr 22 x

/-- `Σ1` (R210). -/
def bigSigma1 (x : Word) : Word := rotr 6 x ^^^ rotr 11 x ^^^ rotr 25 x

/-- `σ0` (R210). -/
def smallSigma0 (x : Word) : Word := rotr 7 x ^^^ rotr 18 x ^^^ (x >>> 3)

/-- `σ1` (R210). -/
def smallSigma1 (x : Word) : Word := rotr 17 x ^^^ rotr 19 x ^^^ (x >>> 10)

/-- The eight words H[0..7], or the eight working variables a..h (R211, R216). -/
structure ShaVars where
  a : Word
  b : Word
  c : Word
  d : Word
  e : Word
  f : Word
  g : Word
  h : Word
deriving DecidableEq, Repr

/-- The initial hash value H0 (R211). -/
def shaH0 : ShaVars where
  a := 0x6a09e667
  b := 0xbb67ae85
  c := 0x3c6ef372
  d := 0xa54ff53a
  e := 0x510e527f
  f := 0x9b05688c
  g := 0x1f83d9ab
  h := 0x5be0cd19

/-- The round constants K[0..63] (R212), eight a row. -/
def shaK : List Word :=
  [0x428a2f98, 0x71374491, 0xb5c0fbcf, 0xe9b5dba5, 0x3956c25b, 0x59f111f1, 0x923f82a4, 0xab1c5ed5] ++
  [0xd807aa98, 0x12835b01, 0x243185be, 0x550c7dc3, 0x72be5d74, 0x80deb1fe, 0x9bdc06a7, 0xc19bf174] ++
  [0xe49b69c1, 0xefbe4786, 0x0fc19dc6, 0x240ca1cc, 0x2de92c6f, 0x4a7484aa, 0x5cb0a9dc, 0x76f988da] ++
  [0x983e5152, 0xa831c66d, 0xb00327c8, 0xbf597fc7, 0xc6e00bf3, 0xd5a79147, 0x06ca6351, 0x14292967] ++
  [0x27b70a85, 0x2e1b2138, 0x4d2c6dfc, 0x53380d13, 0x650a7354, 0x766a0abb, 0x81c2c92e, 0x92722c85] ++
  [0xa2bfe8a1, 0xa81a664b, 0xc24b8b70, 0xc76c51a3, 0xd192e819, 0xd6990624, 0xf40e3585, 0x106aa070] ++
  [0x19a4c116, 0x1e376c08, 0x2748774c, 0x34b0bcb5, 0x391c0cb3, 0x4ed8aa4a, 0x5b9cca4f, 0x682e6ff3] ++
  [0x748f82ee, 0x78a5636f, 0x84c87814, 0x8cc70208, 0x90befffa, 0xa4506ceb, 0xbef9a3f7, 0xc67178f2]

/-- `pad(M)` (R214); the number of zero bytes is the least one that makes the length a multiple of 64. -/
def shaPad (m : Bytes) : Bytes :=
  m ++ [0x80] ++ zeros ((64 - (m.length + 9) % 64) % 64) ++ beBytes 8 (8 * m.length)

/-- The 64-byte blocks of a padded message (R214). -/
def shaBlocks (m : Bytes) : List Bytes := chunks 64 (m.length / 64) m

/-- Word t of a block, t = 0 .. 15, read big-endian (R214). -/
def blockWords (block : Bytes) : List Word := (chunks 4 16 block).map fun c => BitVec.ofNat 32 (be c)

/-- Extend a message schedule by n words. The list holds the newest word first, so W[t-j] is entry j-1 (R215). -/
def extendSchedule : Nat → List Word → List Word
  | 0, ws => ws
  | n + 1, ws =>
    extendSchedule n
      ((smallSigma1 (ws.getD 1 0) + ws.getD 6 0 + smallSigma0 (ws.getD 14 0) + ws.getD 15 0) :: ws)

/-- The message schedule W[0..63] of a block (R215). -/
def shaSchedule (block : Bytes) : List Word := (extendSchedule 48 (blockWords block).reverse).reverse

/-- One round of the compression with K[t] and W[t] (R216). -/
def shaRound (v : ShaVars) (kw : Word × Word) : ShaVars :=
  let t1 := v.h + bigSigma1 v.e + shaCh v.e v.f v.g + kw.1 + kw.2
  let t2 := bigSigma0 v.a + shaMaj v.a v.b v.c
  { h := v.g, g := v.f, f := v.e, e := v.d + t1, d := v.c, c := v.b, b := v.a, a := t1 + t2 }

/-- The wordwise sum that ends a block (R216). -/
def shaAdd (x y : ShaVars) : ShaVars where
  a := x.a + y.a
  b := x.b + y.b
  c := x.c + y.c
  d := x.d + y.d
  e := x.e + y.e
  f := x.f + y.f
  g := x.g + y.g
  h := x.h + y.h

/-- The compression of one block into H (R216). -/
def shaCompress (H : ShaVars) (block : Bytes) : ShaVars :=
  shaAdd H ((shaK.zip (shaSchedule block)).foldl shaRound H)

/-- The digest's bytes, each word big-endian (R217). -/
def shaDigest (H : ShaVars) : Bytes :=
  [H.a, H.b, H.c, H.d, H.e, H.f, H.g, H.h].flatMap fun w => beBytes 4 w.toNat

/-- `SHA256(M)` (R217). -/
def sha256 (m : Bytes) : Bytes := shaDigest ((shaBlocks (shaPad m)).foldl shaCompress shaH0)

/-! ### HMAC-SHA256 -/

/-- K0 (R218): a key longer than a block is hashed, and the key is padded with zeros to 64 bytes. -/
def hmacKey (key : Bytes) : Bytes :=
  let k := if 64 < key.length then sha256 key else key
  k ++ zeros (64 - k.length)

/-- `HMAC(key, m)` (R218). -/
def hmac (key m : Bytes) : Bytes :=
  sha256 ((hmacKey key).map (· ^^^ 0x5c) ++ sha256 ((hmacKey key).map (· ^^^ 0x36) ++ m))

/-! ### HKDF-SHA256 -/

/-- `Extract(salt, IKM)` (R219): an empty salt is 32 zero bytes. -/
def hkdfExtract (salt ikm : Bytes) : Bytes := hmac (if salt.length = 0 then zeros 32 else salt) ikm

/-- The OKM blocks T(i), T(i+1), ... of Expand, `n` of them, after the block `t` (R220). -/
def hkdfBlocks (prk info : Bytes) : Nat → Nat → Bytes → Bytes
  | 0, _, _ => []
  | n + 1, i, t =>
    let t' := hmac prk (t ++ info ++ [BitVec.ofNat 8 i])
    t' ++ hkdfBlocks prk info n (i + 1) t'

/-- `Expand(PRK, info, L)` (R220). -/
def hkdfExpand (prk info : Bytes) (L : Nat) : Bytes := (hkdfBlocks prk info ((L + 31) / 32) 1 []).take L

/-- `KDF(SS)` (R221) for the configuration's HKDF_INFO. -/
def kdf (info ss : Bytes) : Bytes := hkdfExpand (hkdfExtract [] ss) info 32

end Sys2Proof.Machine
end

