-- ==== Sys2Proof/Machine/X25519.lean ====
section
/-! DEFINITION. The X25519 family (R180 to R196): field, clamping, ladder, and the commands KEYGEN and
DERIVE_PUBLIC. A field element is a natural number below p (R180). -/

namespace Sys2Proof.Machine

/-! ### The field GF(2^255 - 19) -/

/-- p (R180). -/
def p25519 : Nat := 2 ^ 255 - 19

/-- a24 (R180). -/
def a24 : Nat := 121665

/-- Addition in the field (R180). -/
def fAdd (x y : Nat) : Nat := (x + y) % p25519

/-- Subtraction in the field: below zero it wraps by adding p (R180). -/
def fSub (x y : Nat) : Nat := (x + (p25519 - y % p25519)) % p25519

/-- Multiplication in the field (R180). -/
def fMul (x y : Nat) : Nat := (x * y) % p25519

/-- `z^e` in the field by squaring over the low `n` bits of e, highest first, from `acc`. -/
def fPowBits (z e : Nat) : Nat → Nat → Nat
  | 0, acc => acc
  | n + 1, acc =>
    fPowBits z e n (if e.testBit n then fMul (fMul acc acc) z else fMul acc acc)

/-- `inv(z) = z^(p-2) mod p` (R181); p - 2 has 255 bits. -/
def fInv (z : Nat) : Nat := fPowBits z (p25519 - 2) 255 1

/-! ### Scalars and u-coordinates -/

/-- `clamp(k)` (R182): bits 0, 1, 2 of byte 0 cleared, bit 7 of byte 31 cleared and bit 6 of byte 31 set. -/
def clamp (k : Bytes) : Bytes :=
  (k.modify 0 fun b => b &&& 0xF8).modify 31 fun b => (b &&& 0x7F) ||| 0x40

/-- `decodeScalar(k)` (R183). -/
def decodeScalar (k : Bytes) : Nat := le (clamp k)

/-- `decodeU(u)` (R184): bit 255 masked off, a value in [p, 2^255) reduced. -/
def decodeU (u : Bytes) : Nat := (le u % 2 ^ 255) % p25519

/-- `encodeU(x)` (R185). -/
def encodeU (x : Nat) : Bytes := leBytes 32 (x % p25519)

/-! ### The ladder -/

/-- The variables of the ladder's loop (R186). -/
structure LadderVars where
  x2 : Nat
  z2 : Nat
  x3 : Nat
  z3 : Nat
  swap : Nat
deriving DecidableEq, Repr

/-- `cswap(swap, x2, x3)` and `cswap(swap, z2, z3)` for a bit (R186). -/
def cswapVars (b : Nat) (v : LadderVars) : LadderVars :=
  if b = 1 then { v with x2 := v.x3, x3 := v.x2, z2 := v.z3, z3 := v.z2 } else v

/-- The arithmetic of one iteration, after the swaps (R186). -/
def ladderArith (x1 : Nat) (v : LadderVars) : LadderVars :=
  let A  := fAdd v.x2 v.z2
  let AA := fMul A A
  let B  := fSub v.x2 v.z2
  let BB := fMul B B
  let E  := fSub AA BB
  let C  := fAdd v.x3 v.z3
  let D  := fSub v.x3 v.z3
  let DA := fMul D A
  let CB := fMul C B
  { x3 := fMul (fAdd DA CB) (fAdd DA CB)
    z3 := fMul (fMul x1 (fSub DA CB)) (fSub DA CB)
    x2 := fMul AA BB
    z2 := fMul E (fAdd AA (fMul a24 E))
    swap := v.swap }

/-- One iteration of the loop at bit t (R186). -/
def ladderStep (s x1 t : Nat) (v : LadderVars) : LadderVars :=
  let kt := (s >>> t) % 2
  { ladderArith x1 (cswapVars (v.swap ^^^ kt) v) with swap := kt }

/-- The iterations at bits n - 1 down to 0. -/
def ladderLoop (s x1 : Nat) : Nat → LadderVars → LadderVars
  | 0, v => v
  | n + 1, v => ladderLoop s x1 n (ladderStep s x1 n v)

/-- The loop's starting values (R186). -/
def ladderStart (u : Nat) : LadderVars where
  x2 := 1
  z2 := 0
  x3 := u
  z3 := 1
  swap := 0

/-- `ladder(s, u)` (R186). -/
def ladder (s u : Nat) : Nat :=
  let v := ladderLoop s u 255 (ladderStart u)
  let r := cswapVars v.swap v
  fMul r.x2 (fInv r.z2)

/-- `X25519(k, u)` (R187). -/
def x25519 (k u : Bytes) : Bytes := encodeU (ladder (decodeScalar k) (decodeU u))

/-- `BASE`: the encoding of u = 9 (R188). -/
def basePoint : Bytes := 0x09 :: zeros 31

/-- `derive_public(k)` (R189). -/
def derivePublicKey (k : Bytes) : Bytes := x25519 (clamp k) basePoint

/-- `isLowOrder(ss)` (R190). -/
def isLowOrder (ss : Bytes) : Bool := ss == zeros 32

/-! ### Key pair generation -/

/-- `generate()` (R193): a draw of 32 bytes, clamped into EPH_SK, and its public key; `none` when the draw fails. -/
def generateKeyPair (rngFail : Bool) (w : Work) : Option (Bytes × Bytes) × Work :=
  match w.draw rngFail 32 with
  | (none, w')     => (none, w')
  | (some raw, w') =>
    let sk := clamp raw
    (some (sk, x25519 sk basePoint), { w' with secrets := { w'.secrets with ephSk := sk } })

/-- `ExecKeygen` (R194): the private key, then the public key. -/
def keygenBody (s : State) : ExecResult :=
  afterPrologue .keygen s
    (match generateKeyPair s.rngFail s.work with
     | (none, w)          => .raise .randomSourceFailure w
     | (some (sk, pk), w) => .success [(s.dstAt, sk ++ pk)] 64 none w)

/-- `ExecDerivePublic` (R195): the key is read as a copy and clamped into EPH_SK. -/
def derivePublicBody (s : State) : ExecResult :=
  afterPrologue .derivePublic s
    (let sk := clamp s.keyBytes
     .success [(s.dstAt, x25519 sk basePoint)] 32 none
       { s.work with secrets := { s.work.secrets with ephSk := sk } })

/-- KEYGEN (R194), run to its completion (R131). -/
def execKeygen (s : State) : Host.Outcome State Fault Refusal := .next (s.complete (keygenBody s))

/-- DERIVE_PUBLIC (R195), run to its completion (R131). -/
def execDerivePublic (s : State) : Host.Outcome State Fault Refusal := .next (s.complete (derivePublicBody s))

end Sys2Proof.Machine
end

