-- ==== Sys2Proof/Machine/Envelope.lean ====
section
/-! DEFINITION. The envelope cipher (R270 to R275): `seal` and `open` with the SECRETS they fill, and the commands
ENCRYPT and DECRYPT. -/

namespace Sys2Proof.Machine

/-! ### The envelope format (R270) -/

/-- The field ephemeral_public. -/
def envEpk (e : Bytes) : Bytes := slice e 0 32

/-- The field nonce. -/
def envNonce (e : Bytes) : Bytes := slice e 32 44

/-- The field ciphertext. -/
def envCiphertext (e : Bytes) : Bytes := slice e 44 (e.length - 16)

/-- The field tag. -/
def envTag (e : Bytes) : Bytes := slice e (e.length - 16) e.length

/-- `ephemeral_public || nonce || ciphertext || tag`. -/
def envelope (epk nonce c t : Bytes) : Bytes := epk ++ nonce ++ c ++ t

/-! ### SECRETS -/

/-- The key derivation's registers: SS, PRK and DK (R219, R221). -/
def Work.withKey (w : Work) (info ss : Bytes) : Work :=
  { w with secrets := { w.secrets with ss := ss, prk := hkdfExtract [] ss, dk := kdf info ss } }

/-- The AEAD's registers under DK: the round keys, the hash subkey, and the staged text (R243, R251, D39). -/
def Work.withAead (w : Work) (staged : Bytes) : Work :=
  { w with
    secrets := { w.secrets with
      rk    := (keyExpansion w.secrets.dk).flatten
      hsub  := gcmH (aes256 w.secrets.dk)
      stage := staged } }

/-! ### The abstract operations -/

/-- What an operation of the envelope cipher answers: a byte string or an error (R272, R273). -/
inductive EnvResult where
  | ok (bs : Bytes)
  | err (e : ErrorCode)
deriving DecidableEq, Repr

/-- `seal(P, pk)` (R272). -/
def sealEnvelope (info : Bytes) (rngFail : Bool) (w : Work) (p pk : Bytes) : EnvResult × Work :=
  match generateKeyPair rngFail w with
  | (none, w1) => (.err .randomSourceFailure, w1)
  | (some (sk, epk), w1) =>
    let ss := x25519 sk pk
    if isLowOrder ss then (.err .invalidPeerPoint, { w1 with secrets := { w1.secrets with ss := ss } })
    else
      let w2 := w1.withKey info ss
      match w2.draw rngFail 12 with
      | (none, w3) => (.err .randomSourceFailure, w3)
      | (some nonce, w3) =>
        let ct := gcmAE w3.secrets.dk nonce p []
        (.ok (envelope epk nonce ct.1 ct.2), w3.withAead ct.1)

/-- `open(E, sk)` (R273): the plaintext is staged and released only when the tag verifies (R253, D39). -/
def openEnvelope (info : Bytes) (w : Work) (e sk : Bytes) : EnvResult × Work :=
  if e.length < 60 then (.err .malformedEnvelope, w)
  else
    let w1 := { w with secrets := { w.secrets with ephSk := clamp sk } }
    let ss := x25519 w1.secrets.ephSk (envEpk e)
    if isLowOrder ss then (.err .invalidPeerPoint, { w1 with secrets := { w1.secrets with ss := ss } })
    else
      let w2 := w1.withKey info ss
      let w3 := w2.withAead (gcmText (aes256 w2.secrets.dk) (envNonce e) (envCiphertext e))
      match gcmAD w3.secrets.dk (envNonce e) (envCiphertext e) [] (envTag e) with
      | none   => (.err .authenticationFailed, w3)
      | some p => (.ok p, w3)

/-! ### The commands -/

/-- `ExecEncrypt` (R274). -/
def encryptBody (s : State) : ExecResult :=
  afterPrologue .encrypt s
    (match sealEnvelope s.config.hkdfInfo s.rngFail s.work s.srcBytes s.keyBytes with
     | (.err e, w) => .raise e w
     | (.ok e, w)  => .success [(s.dstAt, e)] (BitVec.ofNat 32 (s.srcN + 60)) none w)

/-- `ExecDecrypt` (R275). -/
def decryptBody (s : State) : ExecResult :=
  afterPrologue .decrypt s
    (match openEnvelope s.config.hkdfInfo s.work s.srcBytes s.keyBytes with
     | (.err e, w) => .raise e w
     | (.ok p, w)  => .success [(s.dstAt, p)] (BitVec.ofNat 32 (s.srcN - 60)) none w)

/-- ENCRYPT (R274), run to its completion (R131). -/
def execEncrypt (s : State) : Host.Outcome State Fault Refusal := .next (s.complete (encryptBody s))

/-- DECRYPT (R275), run to its completion (R131). -/
def execDecrypt (s : State) : Host.Outcome State Fault Refusal := .next (s.complete (decryptBody s))

end Sys2Proof.Machine
end

