-- ==== Sys2Proof/Machine/Dispatch.lean ====
section
/-! DEFINITION. The dispatch of `Exec` (R132): one arm per command. -/

namespace Sys2Proof.Machine

def exec (i : Instr) (s : State) : Host.Outcome State Fault Refusal :=
  match i with
  -- Checksum Codec
  | .crcInit => Sys2Proof.Machine.execCrcInit s
  | .crcUpdate => Sys2Proof.Machine.execCrcUpdate s
  | .crcFinalize => Sys2Proof.Machine.execCrcFinalize s
  | .crcCompute => Sys2Proof.Machine.execCrcCompute s
  -- Key Pair Generator
  | .keygen => Sys2Proof.Machine.execKeygen s
  | .derivePublic => Sys2Proof.Machine.execDerivePublic s
  -- Envelope Cipher
  | .encrypt => Sys2Proof.Machine.execEncrypt s
  | .decrypt => Sys2Proof.Machine.execDecrypt s

end Sys2Proof.Machine
end

