-- ==== Sys2Proof/Machine/Engine.lean ====
section
/-! DEFINITION. The engine's turn (R130 to R132) and the turns of the other agents (R8). -/

namespace Sys2Proof.Machine

/-- The engine's turn: with a command pending, the completion step for the word in CMD, decoded now and not at the CMD
write (R105, R132); with none pending the engine has no step, and the turn passes (R130, log entry 7). -/
def engineTurn (s : State) : Host.Outcome State Fault Refusal :=
  if s.busy then
    match decode s.cmd with
    | .command i => exec i s
    | .illegal _ => .next s.completeIllegal
  else .next s

/-- One turn. -/
def takeTurn (t : Turn) (s : State) : Host.Outcome State Fault Refusal :=
  match t with
  | .host a => hostAccess a s
  | .engine => engineTurn s
  | .reset  => .next s.resetStep

/-- The next turn of the agenda; with none left the engine has the turn, so a pending command completes (R140). -/
def nextTurn (s : State) : Host.Outcome State Fault Refusal :=
  match s.agenda with
  | []        => engineTurn s
  | t :: rest => takeTurn t { s with agenda := rest }

/-- The word of a command laid in CMD with its issue, and the engine's turn next: what an accepted CMD write leaves
(R34), for the word whose low `nbits` bits are those of w. -/
def State.withCommand (s : State) (nbits w : Nat) : State :=
  { s.issue (BitVec.ofNat 32 (w % 2 ^ nbits)) with agenda := .engine :: s.agenda }

end Sys2Proof.Machine
end

