-- ==== Sys2Proof/Machine/Step.lean ====
section
/-! DEFINITION. One step of the machine, and how a command word is placed for the next step. -/

namespace Sys2Proof.Machine

/-- One step: the next turn in the total order of R85. -/
def step (s : State) : Host.Outcome State Fault Refusal := nextTurn s

/-- The block fetches no instructions (R32): a command comes to run by a CMD write. So the state in which the very
next step runs the command word w is the one right after that write was accepted, with the engine's turn first. -/
def State.withFetchWord (s : State) (nbits w : Nat) : State := s.withCommand nbits w

end Sys2Proof.Machine
end

