-- ==== Sys2Proof/Machine/HostProgram.lean ====
section
/-! DEFINITION. The host notation (R108), its pseudo-instructions (R109) and their bus transactions (R110): how a host
program becomes turns of the agenda. -/

namespace Sys2Proof.Machine

/-- A register access of the notation: 32 bits at `REG_BASE + offset(REG)` (R108, R110). -/
def regAccess (c : Config) (r : Reg) (op : BusOp) : Turn :=
  .host { addr := c.regBase + regOffset r, width := .w32, op := op }

/-- `wrb`: one 8-bit write per byte, at consecutive offsets (R108). -/
def byteWrites (c : Config) : Nat → Bytes → List Turn
  | _, [] => []
  | off, b :: bs =>
    .host { addr := c.bufBase + off, width := .w8, op := .write (b.setWidth 32) } :: byteWrites c (off + 1) bs

/-- The turns of one line of the notation. `wait` is the engine's turn and then the STATUS read that sees BUSY = 0:
the reads before that one change nothing (R79), so they are left out (log entry 9). -/
def hostOpTurns (c : Config) : HostOp → List Turn
  | .wr r v     => [regAccess c r (.write v)]
  | .rd r       => [regAccess c r .read]
  | .wrb off bs => byteWrites c off bs
  | .rdb off n  =>
    (List.range n).map fun i => Turn.host { addr := c.bufBase + (off + i), width := .w8, op := .read }
  | .wait       => [.engine, regAccess c .status .read]

/-- `cmd M` (R109). -/
def cmdOp (i : Instr) : HostOp := .wr .cmd (encode i)

/-- The expansions of R109. -/
def expandPseudo : Pseudo → List HostOp
  | .cmd i          => [cmdOp i]
  | .crcInit        => [cmdOp .crcInit, .wait]
  | .crcUpdate a n  => [.wr .srcAddr a, .wr .srcLen n, cmdOp .crcUpdate, .wait]
  | .crcFinal       => [cmdOp .crcFinalize, .wait, .rd .result]
  | .crcCompute a n => [.wr .srcAddr a, .wr .srcLen n, cmdOp .crcCompute, .wait, .rd .result]
  | .keygen d       => [.wr .dstAddr d, .wr .dstCap 64, cmdOp .keygen, .wait]
  | .derive k d     =>
    [.wr .keyAddr k, .wr .keyLen 32, .wr .dstAddr d, .wr .dstCap 32, cmdOp .derivePublic, .wait]
  | .sealEnv s n k d c =>
    [.wr .srcAddr s, .wr .srcLen n, .wr .keyAddr k, .wr .keyLen 32, .wr .dstAddr d, .wr .dstCap c,
     cmdOp .encrypt, .wait]
  | .openEnv s n k d c =>
    [.wr .srcAddr s, .wr .srcLen n, .wr .keyAddr k, .wr .keyLen 32, .wr .dstAddr d, .wr .dstCap c,
     cmdOp .decrypt, .wait]
  | .check          => [.rd .status, .rd .result]

/-- The turns of a host program, in order. -/
def programTurns (c : Config) (prog : List HostOp) : List Turn := prog.flatMap (hostOpTurns c)

/-- The state in which the host is about to run the program. -/
def State.withProgram (s : State) (prog : List HostOp) : State :=
  { s with agenda := s.agenda ++ programTurns s.config prog }

end Sys2Proof.Machine
end

