-- ==== Sys2Proof/WellFormed.lean ====
section
/-! DEFINITION. The static checks: of a command word (R100, R106), of a configuration (R6). A command itself has no
operand field (R102), so every term of `Instr` is well formed and the checks stand on the word that names it. -/

namespace Sys2Proof

/-- The opcodes R106 lists as the legal ones. -/
def assignedOpcodes : List (BitVec 8) := [0x01, 0x02, 0x03, 0x04, 0x10, 0x11, 0x20, 0x21]

/-- A command word is well formed iff its reserved field is 0 and its opcode is assigned: the complement of R106. -/
def CommandWord.wellFormed (c : CommandWord) : Bool :=
  c.rsv == 0 && assignedOpcodes.contains c.op

/-- Every command is well formed: it has no register, immediate or mode field (R100, R102). -/
def Instr.wellFormed (_ : Instr) : Bool := true

/-- The constraints R6 puts on the parameters: 64 <= BUF_SIZE <= 2^31, REG_BASE aligned to 256 bytes, BUF_BASE
aligned to 4 bytes, and the two windows do not overlap. -/
abbrev Config.wellFormed (c : Config) : Prop :=
  64 ≤ c.bufSize ∧ c.bufSize ≤ 2 ^ 31 ∧ c.regBase % 256 = 0 ∧ c.bufBase % 4 = 0 ∧
    (c.bufBase + c.bufSize ≤ c.regBase ∨ c.regBase + 256 ≤ c.bufBase)

end Sys2Proof
end

