-- ==== Sys2Proof/Safety.lean ====
section
/-! DEFINITION. What counts as a good state and a safe turn, in the terms the claims use. -/

namespace Sys2Proof.Machine

/-- What holds of the block in every state between two turns: the parameters meet R6; BUF's list is canonical and lies
inside BUF (R45); SECRETS is zero (R44, R138); ERR is OK or a code of R311; RESULT is 0 after an error (R40); and an
ERR of RandomSourceFailure goes with RNG_FAIL = 1 (R38, R137). -/
structure State.Inv (s : State) : Prop where
  config       : s.config.wellFormed
  bufCanonical : s.buf.wf
  bufInside    : ∀ c ∈ s.buf, c.1 < s.config.bufSize
  secretsZero  : s.secrets = Secrets.zero
  errKnown     : s.err ∈ completionCodes
  errNoResult  : s.err ≠ 0x00 → s.result = 0x00000000
  rngLatched   : s.err = ErrorCode.randomSourceFailure.code → s.rngFail = true

/-- A turn the block can take without stopping: the engine's, a reset, or a legal host access (R76). -/
def Turn.safe (c : Config) : Turn → Bool
  | .engine => true
  | .reset  => true
  | .host a =>
    match busTarget c a with
    | .register _ => true
    | .buffer _   => true
    | .illegal    => false
    | .outside    => false

/-- A state all of whose lined-up turns are safe. -/
def State.agendaSafe (s : State) : Bool := s.agenda.all (Turn.safe s.config)

/-- The states some run reaches from reset, for some parameters that meet R6, whatever the host, the entropy source
and the reset input do between two steps. -/
inductive State.Reachable : State → Prop where
  | start (c : Config) (h : c.wellFormed) : State.Reachable (State.resetWith c)
  | inputs (s : State) (agenda : List Turn) (entropy : List EntropyAnswer) (h : State.Reachable s) :
      State.Reachable { s with agenda := agenda, entropy := entropy }
  | next (s t : State) (h : State.Reachable s) (hs : step s = .next t) : State.Reachable t

end Sys2Proof.Machine
end

