-- ==== Sys2Proof/Certificates/Slice0/Obligations.lean ====
section
/-! DEFINITION. The statements for the provers. Every statement is about every state, or about every state that meets
the hypotheses written in it; none rests on the value of a free constant of Config. -/

open Sys2Proof Sys2Proof.Machine

/-! ### Encoding -/

/-- R104: the eight rows of the opcode map, each matching the whole word. -/
def Obligations.OpcodeMapMatchesWholeWords : Prop :=
  ∀ w : Word,
    (decode w = .command .crcInit ↔ w = 0x00000001) ∧
    (decode w = .command .crcUpdate ↔ w = 0x00000002) ∧
    (decode w = .command .crcFinalize ↔ w = 0x00000003) ∧
    (decode w = .command .crcCompute ↔ w = 0x00000004) ∧
    (decode w = .command .keygen ↔ w = 0x00000010) ∧
    (decode w = .command .derivePublic ↔ w = 0x00000011) ∧
    (decode w = .command .encrypt ↔ w = 0x00000020) ∧
    (decode w = .command .decrypt ↔ w = 0x00000021)

/-- R104, R105: for every command, decoding its word, and decoding its four bytes in front of any others, gives the
command back and consumes one word (R101); and ten words written out by hand decode as R104 and R106 say: the nine of
V70, and KEYGEN's. That a word stands as four little-endian bytes, in `decodeBytes` and `decodeTableWord`, is the
model's reading (log entry 11). -/
def Obligations.DecodeOfEncodeIsTheCommand : Prop :=
  (∀ (i : Instr) (rest : Bytes),
    i.wellFormed = true →
      decode (encode i) = .command i ∧ decodeBytes (encodeBytes i ++ rest) = some (.command i, rest) ∧
      decodeTableWord 32 (encode i).toNat = some i) ∧
  decode 0x00000001 = .command .crcInit ∧ decode 0x00000010 = .command .keygen ∧
  decode 0x00000021 = .command .decrypt ∧ decode 0x00000000 = .illegal .unassignedOpcode ∧
  decode 0x00000005 = .illegal .unassignedOpcode ∧ decode 0x00000012 = .illegal .unassignedOpcode ∧
  decode 0x00000022 = .illegal .unassignedOpcode ∧ decode 0x00000120 = .illegal .reservedBitsSet ∧
  decode 0x80000001 = .illegal .reservedBitsSet ∧ decode 0xFFFFFFFF = .illegal .reservedBitsSet

/-- R106: which words are illegal (first clause: RSV or OP), that the CMD write accepts them like any other (second
clause), and that their completion sets ERR to IllegalCommand and RESULT to 0 and has no other effect. -/
def Obligations.IllegalWordsCompleteWithIllegalCommand : Prop :=
  (∀ w : Word, (∃ why, decode w = .illegal why) ↔
    (w.toNat / 256 ≠ 0 ∨ w.toNat % 256 ∉ [0x01, 0x02, 0x03, 0x04, 0x10, 0x11, 0x20, 0x21])) ∧
  (∀ (s : State) (w : Word), s.busy = false →
    hostAccess { addr := s.config.regBase, width := .w32, op := .write w } s =
      .next { s with cmd := w, busy := true, reply := .writeTaken }) ∧
  (∀ (s : State) (why : IllegalReason), s.busy = true → decode s.cmd = .illegal why →
    step { s with agenda := .engine :: s.agenda } =
      .next { s with result := 0x00000000, err := 0x10, busy := false, secrets := Secrets.zero })

/-! ### The step -/

/-- R130, R132 and the model's agenda (log entry 7): a step is the first turn of the agenda, and the engine's when there
is none; the engine runs the command that CMD decodes to, and has no step while nothing is pending. -/
def Obligations.StepRunsTheNextTurn : Prop :=
  ∀ (s : State) (rest : List Turn),
    (∀ i, s.busy = true → decode s.cmd = .command i →
      (s.agenda = .engine :: rest → step s = exec i { s with agenda := rest }) ∧
      (s.agenda = [] → step s = exec i s)) ∧
    (s.busy = false →
      (s.agenda = .engine :: rest → step s = .next { s with agenda := rest }) ∧
      (s.agenda = [] → step s = .next s)) ∧
    (∀ a, s.agenda = .host a :: rest → step s = hostAccess a { s with agenda := rest }) ∧
    (s.agenda = .reset :: rest → step s = .next { s with agenda := rest }.resetStep)

/-- A command word placed by `withFetchWord` is what the very next step runs: the word stands in CMD as an accepted CMD
write leaves it (R34), the engine decodes it (R105) and runs it (R130, R132). That placing a word stands for that CMD
write, with the engine's turn next, is the model's choice (log entry 9). -/
def Obligations.PlacedWordRunsNext : Prop :=
  ∀ (s : State) (nbits w : Nat) (i : Instr), decodeTableWord nbits w = some i →
    step (s.withFetchWord nbits w) = exec i { s with cmd := BitVec.ofNat 32 (w % 2 ^ nbits), busy := true }

/-- The frame of every command (R131, R135, R136): it completes, clears BUSY and SECRETS, and leaves alone every
register that R131 does not name, CRC_STATE unless it is CRC_INIT or CRC_UPDATE, the oracle's side unless it draws, and
every byte of BUF outside its dstR. -/
def Obligations.CommandsChangeOnlyWhatTheirRulesName : Prop :=
  ∀ (i : Instr) (s : State), ∃ t, exec i s = .next t ∧
    t.busy = false ∧ t.secrets = Secrets.zero ∧
    t.config = s.config ∧ t.cmd = s.cmd ∧ t.hazard = s.hazard ∧
    t.srcAddr = s.srcAddr ∧ t.srcLen = s.srcLen ∧ t.keyAddr = s.keyAddr ∧ t.keyLen = s.keyLen ∧
    t.dstAddr = s.dstAddr ∧ t.dstCap = s.dstCap ∧
    t.agenda = s.agenda ∧ t.reply = s.reply ∧ t.busyReads = s.busyReads ∧ t.resets = s.resets ∧
    (i ≠ .crcInit → i ≠ .crcUpdate → t.crcState = s.crcState) ∧
    (i ≠ .keygen → i ≠ .encrypt → t.rngFail = s.rngFail ∧ t.entropy = s.entropy ∧ t.draws = s.draws) ∧
    (∀ a : Nat,
      ¬(t.err = 0x00 ∧ writesDst i = true ∧ s.dstAddr.toNat ≤ a ∧ a < s.dstAddr.toNat + outlen i s) →
        t.bufByte a = s.bufByte a)

/-- R312: what a command that ends with an error leaves behind. RNG_FAIL is set exactly when the error is
RandomSourceFailure. The last two fields are the oracle's side, which is not state of the block. -/
def Obligations.ErrorsLeaveEverythingButTheCode : Prop :=
  (∀ (i : Instr) (s t : State), exec i s = .next t → t.err ≠ 0x00 →
    t = { s with
      result := 0x00000000
      err := t.err
      secrets := Secrets.zero
      rngFail := s.rngFail || t.err == 0x06
      busy := false
      entropy := t.entropy
      draws := t.draws }) ∧
  (∀ s : State, s.completeIllegal =
    { s with result := 0x00000000, err := 0x10, secrets := Secrets.zero, busy := false })

/-- R314, the empty cells of its table: a command reports no code other than OK and those marked for it. -/
def Obligations.CommandsReportOnlyTheirCodes : Prop :=
  ∀ (i : Instr) (s t : State), exec i s = .next t →
    t.err ∈ (match i with
      | .crcInit      => [0x00]
      | .crcUpdate    => [0x00, 0x11]
      | .crcFinalize  => [0x00]
      | .crcCompute   => [0x00, 0x11]
      | .keygen       => [0x00, 0x03, 0x06, 0x11]
      | .derivePublic => [0x00, 0x01, 0x03, 0x11]
      | .encrypt      => [0x00, 0x01, 0x02, 0x03, 0x06, 0x11]
      | .decrypt      => [0x00, 0x01, 0x02, 0x03, 0x04, 0x05, 0x11] : List Byte)

/-! ### CRC-32 -/

/-- R157. -/
def Obligations.CrcInitLoadsInit : Prop :=
  encode .crcInit = 0x00000001 ∧
  (∀ s : State, exec .crcInit s =
    .next { s with
      crcState := 0xFFFFFFFF
      result := 0x00000000
      err := 0x00
      busy := false
      secrets := Secrets.zero }) ∧
  (∀ s t : State, exec .crcInit s = .next t → exec .crcInit t = .next t)

/-- R158, with its example. -/
def Obligations.CrcUpdateAdvancesTheAccumulator : Prop :=
  encode .crcUpdate = 0x00000002 ∧
  (∀ s : State, s.srcAddr.toNat + s.srcLen.toNat ≤ s.config.bufSize →
    exec .crcUpdate s =
      .next { s with
        crcState := crc32Update s.crcState (s.memRead s.srcAddr.toNat s.srcLen.toNat)
        result := 0x00000000
        err := 0x00
        busy := false
        secrets := Secrets.zero }) ∧
  (∀ s : State, s.config.bufSize < s.srcAddr.toNat + s.srcLen.toNat →
    exec .crcUpdate s =
      .next { s with result := 0x00000000, err := 0x11, busy := false, secrets := Secrets.zero }) ∧
  (∀ c : Word, crc32Update c [] = c) ∧
  crc32Update 0xFFFFFFFF [0x31, 0x32, 0x33, 0x34] = 0x641C1F5C

/-- R159, with its example. -/
def Obligations.CrcFinalizeReportsTheChecksum : Prop :=
  encode .crcFinalize = 0x00000003 ∧
  (∀ s : State, exec .crcFinalize s =
    .next { s with
      result := s.crcState ^^^ 0xFFFFFFFF
      err := 0x00
      busy := false
      secrets := Secrets.zero }) ∧
  (∀ s t : State, exec .crcFinalize s = .next t → exec .crcFinalize t = .next t) ∧
  (0x340BC6D9 ^^^ 0xFFFFFFFF : Word) = 0xCBF43926

/-- R160, with its example. -/
def Obligations.CrcComputeIsOneShot : Prop :=
  encode .crcCompute = 0x00000004 ∧
  (∀ s : State, s.srcAddr.toNat + s.srcLen.toNat ≤ s.config.bufSize →
    exec .crcCompute s =
      .next { s with
        result := crc32Update 0xFFFFFFFF (s.memRead s.srcAddr.toNat s.srcLen.toNat) ^^^ 0xFFFFFFFF
        err := 0x00
        busy := false
        secrets := Secrets.zero }) ∧
  (∀ s : State, s.config.bufSize < s.srcAddr.toNat + s.srcLen.toNat →
    exec .crcCompute s =
      .next { s with result := 0x00000000, err := 0x11, busy := false, secrets := Secrets.zero }) ∧
  crc32Compute [0x31, 0x32, 0x33, 0x34, 0x35, 0x36, 0x37, 0x38, 0x39] = 0xCBF43926

/-- The table-driven byte step of R151 and R152 is the bit-serial CRC of R150: eight shifts, least significant bit
first, of the state with the byte xored in. -/
def Obligations.CrcByteStepIsEightBitSteps : Prop :=
  ∀ (st : Word) (b : Byte), crcByte st b = Nat.iterate crcShift 8 (st ^^^ b.setWidth 32)

/-- R155. -/
def Obligations.CrcOfChunksIsCrcOfTheWhole : Prop :=
  (∀ chunks : List Bytes,
    crc32Finalize (chunks.foldl crc32Update 0xFFFFFFFF) = crc32Compute chunks.flatten) ∧
  (∀ (c : Word) (x y : Bytes), crc32Update c (x ++ y) = crc32Update (crc32Update c x) y)

/-- R155 at the level of the commands: CRC_UPDATE over a region and then over the region after it leaves the CRC_STATE
that one CRC_UPDATE over both leaves. -/
def Obligations.AdjacentCrcUpdatesAreOne : Prop :=
  ∀ (s t u v : State) (a n m : Word),
    n.toNat + m.toNat < 2 ^ 32 → a.toNat + n.toNat < 2 ^ 32 →
    a.toNat + n.toNat + m.toNat ≤ s.config.bufSize →
    exec .crcUpdate { s with srcAddr := a, srcLen := n } = .next t →
    exec .crcUpdate { t with srcAddr := a + n, srcLen := m } = .next u →
    exec .crcUpdate { s with srcAddr := a, srcLen := n + m } = .next v →
    t.err = 0x00 ∧ u.err = 0x00 ∧ v.err = 0x00 ∧ u.crcState = v.crcState

/-! ### X25519 -/

/-- R182. -/
def Obligations.ClampFixesFiveBits : Prop :=
  ∀ k : Bytes, k.length = 32 →
    (clamp k).length = 32 ∧
    (clamp k).getD 0 0 = k.getD 0 0 &&& 0xF8 ∧
    (clamp k).getD 31 0 = (k.getD 31 0 &&& 0x7F) ||| 0x40 ∧
    (∀ j : Nat, 1 ≤ j → j ≤ 30 → (clamp k).getD j 0 = k.getD j 0)

/-- R183. -/
def Obligations.DecodedScalarRange : Prop :=
  ∀ k : Bytes, k.length = 32 →
    decodeScalar k = le (clamp k) ∧ 2 ^ 254 ≤ decodeScalar k ∧ decodeScalar k < 2 ^ 255 ∧ decodeScalar k % 8 = 0

/-- R192. -/
def Obligations.ClampingTwiceIsClampingOnce : Prop :=
  ∀ k u : Bytes,
    clamp (clamp k) = clamp k ∧ x25519 (clamp k) u = x25519 k u ∧
    derivePublicKey (clamp (clamp k)) = derivePublicKey (clamp k)

/-- R184: the value of decodeU; bit 255 does not matter; a value from p on stands for the value reduced mod p. -/
def Obligations.UCoordinatesAreMaskedAndReduced : Prop :=
  (∀ u : Bytes, decodeU u = (le u % 2 ^ 255) % (2 ^ 255 - 19)) ∧
  (∀ k u : Bytes, u.length = 32 → x25519 k (u.modify 31 fun b => b ^^^ 0x80) = x25519 k u) ∧
  (∀ (k : Bytes) (n : Nat), n < 19 → x25519 k (leBytes 32 (2 ^ 255 - 19 + n)) = x25519 k (leBytes 32 n))

/-- R185. -/
def Obligations.EncodedUCoordinateIsCanonical : Prop :=
  ∀ x : Nat,
    encodeU x = leBytes 32 (x % (2 ^ 255 - 19)) ∧ (encodeU x).length = 32 ∧
    le (encodeU x) = x % (2 ^ 255 - 19) ∧ ((encodeU x).getD 31 0).getLsbD 7 = false

/-- R181, its first sentence: the inversion by repeated squaring is the power p - 2; and inv(0) = 0. -/
def Obligations.FieldInversionIsThePower : Prop :=
  (∀ z : Nat, fInv z = z ^ (2 ^ 255 - 19 - 2) % (2 ^ 255 - 19)) ∧ fInv 0 = 0

/-- R190, R274 and R275 for the point u = 0 (in every encoding of it): the shared secret is all zero for every scalar, so
ENCRYPT to such a key fails with InvalidPeerPoint after one draw, and DECRYPT of an envelope with such an ephemeral key
fails with it as well. -/
def Obligations.ZeroPointIsRejected : Prop :=
  (∀ k u : Bytes, decodeU u = 0 → x25519 k u = zeros 32) ∧
  (∀ (s : State) (raw : Bytes),
    s.keyLen.toNat = 32 → s.srcLen.toNat + 60 ≤ s.dstCap.toNat →
    s.srcAddr.toNat + s.srcLen.toNat ≤ s.config.bufSize → s.keyAddr.toNat + 32 ≤ s.config.bufSize →
    s.dstAddr.toNat + (s.srcLen.toNat + 60) ≤ s.config.bufSize →
    s.rngFail = false → s.work.nextAnswer 32 = some raw → decodeU (s.memRead s.keyAddr.toNat 32) = 0 →
    exec .encrypt s =
      .next { s with
        result := 0x00000000
        err := 0x02
        busy := false
        secrets := Secrets.zero
        entropy := s.entropy.tail
        draws := s.draws + 1 }) ∧
  (∀ s : State,
    60 ≤ s.srcLen.toNat → s.keyLen.toNat = 32 → s.srcLen.toNat - 60 ≤ s.dstCap.toNat →
    s.srcAddr.toNat + s.srcLen.toNat ≤ s.config.bufSize → s.keyAddr.toNat + 32 ≤ s.config.bufSize →
    s.dstAddr.toNat + (s.srcLen.toNat - 60) ≤ s.config.bufSize →
    decodeU (s.memRead s.srcAddr.toNat 32) = 0 →
    exec .decrypt s =
      .next { s with result := 0x00000000, err := 0x02, busy := false, secrets := Secrets.zero })

/-- R194: KEYGEN, its errors in their order and its success, for every answer of the oracle. -/
def Obligations.KeygenWritesAFreshKeyPair : Prop :=
  encode .keygen = 0x00000010 ∧
  (∀ s : State, s.dstCap.toNat < 64 →
    exec .keygen s =
      .next { s with result := 0x00000000, err := 0x03, busy := false, secrets := Secrets.zero }) ∧
  (∀ s : State, 64 ≤ s.dstCap.toNat → s.config.bufSize < s.dstAddr.toNat + 64 →
    exec .keygen s =
      .next { s with result := 0x00000000, err := 0x11, busy := false, secrets := Secrets.zero }) ∧
  (∀ s : State, 64 ≤ s.dstCap.toNat → s.dstAddr.toNat + 64 ≤ s.config.bufSize → s.rngFail = true →
    exec .keygen s =
      .next { s with result := 0x00000000, err := 0x06, busy := false, secrets := Secrets.zero }) ∧
  (∀ s : State, 64 ≤ s.dstCap.toNat → s.dstAddr.toNat + 64 ≤ s.config.bufSize → s.rngFail = false →
    s.work.nextAnswer 32 = none →
    exec .keygen s =
      .next { s with
        result := 0x00000000
        err := 0x06
        rngFail := true
        busy := false
        secrets := Secrets.zero
        entropy := s.entropy.tail
        draws := s.draws + 1 }) ∧
  (∀ (s : State) (raw : Bytes), 64 ≤ s.dstCap.toNat → s.dstAddr.toNat + 64 ≤ s.config.bufSize → s.rngFail = false →
    s.work.nextAnswer 32 = some raw →
    exec .keygen s =
      .next { s with
        buf := s.buf.setBytes s.dstAddr.toNat (clamp raw ++ x25519 (clamp raw) basePoint)
        result := 64
        err := 0x00
        busy := false
        secrets := Secrets.zero
        entropy := s.entropy.tail
        draws := s.draws + 1 })

/-- R195: DERIVE_PUBLIC, its errors in their order and its success. -/
def Obligations.DerivePublicWritesThePublicKey : Prop :=
  encode .derivePublic = 0x00000011 ∧
  (∀ s : State, s.keyLen.toNat ≠ 32 →
    exec .derivePublic s =
      .next { s with result := 0x00000000, err := 0x01, busy := false, secrets := Secrets.zero }) ∧
  (∀ s : State, s.keyLen.toNat = 32 → s.dstCap.toNat < 32 →
    exec .derivePublic s =
      .next { s with result := 0x00000000, err := 0x03, busy := false, secrets := Secrets.zero }) ∧
  (∀ s : State, s.keyLen.toNat = 32 → 32 ≤ s.dstCap.toNat →
    (s.config.bufSize < s.keyAddr.toNat + 32 ∨ s.config.bufSize < s.dstAddr.toNat + 32) →
    exec .derivePublic s =
      .next { s with result := 0x00000000, err := 0x11, busy := false, secrets := Secrets.zero }) ∧
  (∀ s : State, s.keyLen.toNat = 32 → 32 ≤ s.dstCap.toNat →
    s.keyAddr.toNat + 32 ≤ s.config.bufSize → s.dstAddr.toNat + 32 ≤ s.config.bufSize →
    exec .derivePublic s =
      .next { s with
        buf := s.buf.setBytes s.dstAddr.toNat (x25519 (clamp (s.memRead s.keyAddr.toNat 32)) basePoint)
        result := 32
        err := 0x00
        busy := false
        secrets := Secrets.zero })

/-- R196: the public key KEYGEN wrote for a draw is the one DERIVE_PUBLIC writes from that draw, raw or clamped: from
the 32 bytes drawn, or from the private key KEYGEN wrote. -/
def Obligations.KeygenAndDerivePublicAgree : Prop :=
  ∀ (s t s' t' : State) (raw : Bytes),
    exec .keygen s = .next t → t.err = 0x00 → s.work.nextAnswer 32 = some raw →
    (s'.memRead s'.keyAddr.toNat 32 = raw ∨ s'.memRead s'.keyAddr.toNat 32 = t.memRead s.dstAddr.toNat 32) →
    exec .derivePublic s' = .next t' → t'.err = 0x00 →
    t.memRead s.dstAddr.toNat 32 = clamp raw ∧
    t'.memRead s'.dstAddr.toNat 32 = t.memRead (s.dstAddr.toNat + 32) 32

/-! ### SHA-256, HMAC, HKDF -/

/-- R214 and R217: the padded message is the message, 0x80, zeros and the bit length, a whole number of blocks with
fewer than 64 zeros; and the digest has 32 bytes. -/
def Obligations.ShaPaddingFillsWholeBlocks : Prop :=
  ∀ m : Bytes,
    (∃ k, k < 64 ∧ shaPad m = m ++ [0x80] ++ zeros k ++ beBytes 8 (8 * m.length)) ∧
    (shaPad m).length % 64 = 0 ∧ (shaBlocks (shaPad m)).flatten = shaPad m ∧
    (∀ b ∈ shaBlocks (shaPad m), b.length = 64) ∧ (sha256 m).length = 32

/-- R215. -/
def Obligations.ShaScheduleMeetsItsRecurrence : Prop :=
  ∀ block : Bytes, block.length = 64 →
    (shaSchedule block).length = 64 ∧
    (∀ t, t < 16 →
      (shaSchedule block).getD t 0 = BitVec.ofNat 32 (be (slice block (4 * t) (4 * t + 4)))) ∧
    (∀ t, 16 ≤ t → t < 64 →
      (shaSchedule block).getD t 0 =
        smallSigma1 ((shaSchedule block).getD (t - 2) 0) + (shaSchedule block).getD (t - 7) 0 +
          smallSigma0 ((shaSchedule block).getD (t - 15) 0) + (shaSchedule block).getD (t - 16) 0)

/-- R221's second line, and R222: the key derivation is two HMACs, and an empty salt is a salt of 32 zero bytes. R219 and
R220: Extract has 32 bytes, Expand has the length asked for, and a shorter Expand is a prefix of a longer one. -/
def Obligations.KeyDerivationIsTwoHmacs : Prop :=
  (∀ info ss : Bytes, kdf info ss = hmac (hmac (zeros 32) ss) (info ++ [0x01]) ∧ (kdf info ss).length = 32) ∧
  (∀ ikm : Bytes, hkdfExtract [] ikm = hkdfExtract (zeros 32) ikm ∧ hmac [] ikm = hmac (zeros 32) ikm) ∧
  (∀ salt ikm : Bytes, (hkdfExtract salt ikm).length = 32) ∧
  (∀ (prk info : Bytes) (L M : Nat), L ≤ 255 * 32 → M ≤ L →
    (hkdfExpand prk info L).length = L ∧ hkdfExpand prk info M = (hkdfExpand prk info L).take M)

/-! ### AES-256 and GCM -/

/-- R241: the table is the affine map of the inverse in the field of R240, with inv8(0) = 0. -/
def Obligations.SboxIsTheAffineInverse : Prop :=
  sbox 0 = sboxAffine 0 ∧ (∀ a : Byte, a ≠ 0 → ∃ b : Byte, gf8Mul a b = 1 ∧ sbox a = sboxAffine b)

/-- R243. -/
def Obligations.KeyExpansionMeetsItsRecurrence : Prop :=
  ∀ key : Bytes, key.length = 32 →
    (keyExpansion key).length = 60 ∧
    (∀ i, i < 8 → (keyExpansion key).getD i [] = slice key (4 * i) (4 * i + 4)) ∧
    (∀ i, 8 ≤ i → i < 60 →
      (keyExpansion key).getD i [] =
        xorBytes ((keyExpansion key).getD (i - 8) [])
          (if i % 8 = 0 then xorBytes (subWord (rotWord ((keyExpansion key).getD (i - 1) []))) (rcon (i / 8))
           else if i % 8 = 4 then subWord ((keyExpansion key).getD (i - 1) [])
           else (keyExpansion key).getD (i - 1) []))

/-- R250: counter mode keeps the length and undoes itself, whatever 16-byte block cipher it runs. -/
def Obligations.CounterModeUndoesItself : Prop :=
  ∀ (E : Bytes → Bytes) (icb x : Bytes), (∀ b, (E b).length = 16) →
    (gctr E icb x).length = x.length ∧ gctr E icb (gctr E icb x) = x

/-- R252 and R253: authenticated decryption gives back what authenticated encryption took, for a 32-byte key; the
ciphertext has the plaintext's length and the tag 16 bytes; and any other tag gives FAIL. -/
def Obligations.GcmOpensWhatItSealed : Prop :=
  ∀ k iv p a : Bytes, k.length = 32 →
    (gcmAE k iv p a).1.length = p.length ∧ (gcmAE k iv p a).2.length = 16 ∧
    gcmAD k iv (gcmAE k iv p a).1 a (gcmAE k iv p a).2 = some p ∧
    (∀ t : Bytes, t ≠ (gcmAE k iv p a).2 → gcmAD k iv (gcmAE k iv p a).1 a t = none)

/-- R248: gfmul is the product of a field of characteristic 2: linear in both arguments, with the block 80 00 .. 00 as
its unit. -/
def Obligations.GfmulIsBilinearWithUnit : Prop :=
  ∀ x y z : Block128,
    gfmul (x ^^^ y) z = gfmul x z ^^^ gfmul y z ∧ gfmul x (y ^^^ z) = gfmul x y ^^^ gfmul x z ∧
    gfmul 0x80000000000000000000000000000000 y = y ∧ gfmul x 0x80000000000000000000000000000000 = x

/-- R274's corner case: the tag over an empty plaintext is the cipher of the block `nonce || 00000001`. -/
def Obligations.EmptyPlaintextTag : Prop :=
  ∀ k iv : Bytes, k.length = 32 →
    gcmAE k iv [] [] = ([], aes256 k (iv ++ [0x00, 0x00, 0x00, 0x01]))

/-! ### The envelope -/

/-- R274: ENCRYPT, its errors in their order and its success, for every answer of the oracle. -/
def Obligations.EncryptSealsAnEnvelope : Prop :=
  encode .encrypt = 0x00000020 ∧
  (∀ s : State, s.keyLen.toNat ≠ 32 →
    exec .encrypt s =
      .next { s with result := 0x00000000, err := 0x01, busy := false, secrets := Secrets.zero }) ∧
  (∀ s : State, s.keyLen.toNat = 32 → s.dstCap.toNat < s.srcLen.toNat + 60 →
    exec .encrypt s =
      .next { s with result := 0x00000000, err := 0x03, busy := false, secrets := Secrets.zero }) ∧
  (∀ s : State, s.keyLen.toNat = 32 → s.srcLen.toNat + 60 ≤ s.dstCap.toNat →
    (s.config.bufSize < s.srcAddr.toNat + s.srcLen.toNat ∨ s.config.bufSize < s.keyAddr.toNat + 32 ∨
      s.config.bufSize < s.dstAddr.toNat + (s.srcLen.toNat + 60)) →
    exec .encrypt s =
      .next { s with result := 0x00000000, err := 0x11, busy := false, secrets := Secrets.zero }) ∧
  (∀ s : State, s.keyLen.toNat = 32 → s.srcLen.toNat + 60 ≤ s.dstCap.toNat →
    s.srcAddr.toNat + s.srcLen.toNat ≤ s.config.bufSize → s.keyAddr.toNat + 32 ≤ s.config.bufSize →
    s.dstAddr.toNat + (s.srcLen.toNat + 60) ≤ s.config.bufSize →
    (s.rngFail = true →
      exec .encrypt s =
        .next { s with result := 0x00000000, err := 0x06, busy := false, secrets := Secrets.zero }) ∧
    (s.rngFail = false → s.work.nextAnswer 32 = none →
      exec .encrypt s =
        .next { s with
          result := 0x00000000
          err := 0x06
          rngFail := true
          busy := false
          secrets := Secrets.zero
          entropy := s.entropy.tail
          draws := s.draws + 1 }) ∧
    (∀ raw, s.rngFail = false → s.work.nextAnswer 32 = some raw →
      (x25519 (clamp raw) (s.memRead s.keyAddr.toNat 32) = zeros 32 →
        exec .encrypt s =
          .next { s with
            result := 0x00000000
            err := 0x02
            busy := false
            secrets := Secrets.zero
            entropy := s.entropy.tail
            draws := s.draws + 1 }) ∧
      (x25519 (clamp raw) (s.memRead s.keyAddr.toNat 32) ≠ zeros 32 →
        (s.work.advance.nextAnswer 12 = none →
          exec .encrypt s =
            .next { s with
              result := 0x00000000
              err := 0x06
              rngFail := true
              busy := false
              secrets := Secrets.zero
              entropy := s.entropy.tail.tail
              draws := s.draws + 2 }) ∧
        (∀ nonce, s.work.advance.nextAnswer 12 = some nonce →
          exec .encrypt s =
            .next { s with
              buf := s.buf.setBytes s.dstAddr.toNat
                (x25519 (clamp raw) basePoint ++ nonce ++
                  (gcmAE (kdf s.config.hkdfInfo (x25519 (clamp raw) (s.memRead s.keyAddr.toNat 32))) nonce
                    (s.memRead s.srcAddr.toNat s.srcLen.toNat) []).1 ++
                  (gcmAE (kdf s.config.hkdfInfo (x25519 (clamp raw) (s.memRead s.keyAddr.toNat 32))) nonce
                    (s.memRead s.srcAddr.toNat s.srcLen.toNat) []).2)
              result := BitVec.ofNat 32 (s.srcLen.toNat + 60)
              err := 0x00
              busy := false
              secrets := Secrets.zero
              entropy := s.entropy.tail.tail
              draws := s.draws + 2 }))))

/-- R275: DECRYPT, its errors in their order and its success. The fields of the envelope E are those of R270. -/
def Obligations.DecryptOpensAnEnvelope : Prop :=
  encode .decrypt = 0x00000021 ∧
  (∀ s : State, s.srcLen.toNat < 60 →
    exec .decrypt s =
      .next { s with result := 0x00000000, err := 0x04, busy := false, secrets := Secrets.zero }) ∧
  (∀ s : State, 60 ≤ s.srcLen.toNat → s.keyLen.toNat ≠ 32 →
    exec .decrypt s =
      .next { s with result := 0x00000000, err := 0x01, busy := false, secrets := Secrets.zero }) ∧
  (∀ s : State, 60 ≤ s.srcLen.toNat → s.keyLen.toNat = 32 → s.dstCap.toNat < s.srcLen.toNat - 60 →
    exec .decrypt s =
      .next { s with result := 0x00000000, err := 0x03, busy := false, secrets := Secrets.zero }) ∧
  (∀ s : State, 60 ≤ s.srcLen.toNat → s.keyLen.toNat = 32 → s.srcLen.toNat - 60 ≤ s.dstCap.toNat →
    (s.config.bufSize < s.srcAddr.toNat + s.srcLen.toNat ∨ s.config.bufSize < s.keyAddr.toNat + 32 ∨
      s.config.bufSize < s.dstAddr.toNat + (s.srcLen.toNat - 60)) →
    exec .decrypt s =
      .next { s with result := 0x00000000, err := 0x11, busy := false, secrets := Secrets.zero }) ∧
  (∀ (s : State) (E ss : Bytes),
    60 ≤ s.srcLen.toNat → s.keyLen.toNat = 32 → s.srcLen.toNat - 60 ≤ s.dstCap.toNat →
    s.srcAddr.toNat + s.srcLen.toNat ≤ s.config.bufSize → s.keyAddr.toNat + 32 ≤ s.config.bufSize →
    s.dstAddr.toNat + (s.srcLen.toNat - 60) ≤ s.config.bufSize →
    E = s.memRead s.srcAddr.toNat s.srcLen.toNat →
    ss = x25519 (clamp (s.memRead s.keyAddr.toNat 32)) (slice E 0 32) →
    (ss = zeros 32 →
      exec .decrypt s =
        .next { s with result := 0x00000000, err := 0x02, busy := false, secrets := Secrets.zero }) ∧
    (ss ≠ zeros 32 →
      (gcmAD (kdf s.config.hkdfInfo ss) (slice E 32 44) (slice E 44 (E.length - 16)) []
          (slice E (E.length - 16) E.length) = none →
        exec .decrypt s =
          .next { s with result := 0x00000000, err := 0x05, busy := false, secrets := Secrets.zero }) ∧
      (∀ p, gcmAD (kdf s.config.hkdfInfo ss) (slice E 32 44) (slice E 44 (E.length - 16)) []
          (slice E (E.length - 16) E.length) = some p →
        exec .decrypt s =
          .next { s with
            buf := s.buf.setBytes s.dstAddr.toNat p
            result := BitVec.ofNat 32 (s.srcLen.toNat - 60)
            err := 0x00
            busy := false
            secrets := Secrets.zero })))

/-- R271: what a successful ENCRYPT or DECRYPT writes, and RESULT, have exactly the length the rule gives. -/
def Obligations.EnvelopeLengthInvariant : Prop :=
  ∀ s t : State, s.config.wellFormed → t.err = 0x00 →
    (exec .encrypt s = .next t →
      t.result.toNat = s.srcLen.toNat + 60 ∧
      ∃ e : Bytes, e.length = s.srcLen.toNat + 60 ∧ t.buf = s.buf.setBytes s.dstAddr.toNat e) ∧
    (exec .decrypt s = .next t →
      60 ≤ s.srcLen.toNat ∧ t.result.toNat = s.srcLen.toNat - 60 ∧
      ∃ p : Bytes, p.length = s.srcLen.toNat - 60 ∧ t.buf = s.buf.setBytes s.dstAddr.toNat p)

/-- R276 at the level of the commands. Its one step from outside the rules, that scalar multiplication commutes (both
sides compute the same shared secret), stands as the hypothesis; everything else is proved of the commands: DECRYPT of
the bytes a successful ENCRYPT wrote, in any state with the same HKDF_INFO and passing argument checks, succeeds and
writes the plaintext. -/
def Obligations.DecryptUndoesEncrypt : Prop :=
  ∀ (s t s' : State) (raw : Bytes),
    exec .encrypt s = .next t → t.err = 0x00 → s.work.nextAnswer 32 = some raw →
    x25519 (clamp (s'.memRead s'.keyAddr.toNat 32)) (x25519 (clamp raw) basePoint) =
      x25519 (clamp raw) (s.memRead s.keyAddr.toNat 32) →
    s'.config.hkdfInfo = s.config.hkdfInfo →
    s'.srcLen.toNat = s.srcLen.toNat + 60 →
    s'.memRead s'.srcAddr.toNat s'.srcLen.toNat = t.memRead s.dstAddr.toNat (s.srcLen.toNat + 60) →
    s'.keyLen.toNat = 32 → s.srcLen.toNat ≤ s'.dstCap.toNat →
    s'.srcAddr.toNat + s'.srcLen.toNat ≤ s'.config.bufSize → s'.keyAddr.toNat + 32 ≤ s'.config.bufSize →
    s'.dstAddr.toNat + s.srcLen.toNat ≤ s'.config.bufSize →
    ∃ t', exec .decrypt s' = .next t' ∧ t'.err = 0x00 ∧ t'.result = s.srcLen ∧
      t'.memRead s'.dstAddr.toNat s.srcLen.toNat = s.memRead s.srcAddr.toNat s.srcLen.toNat

/-- R277, exception 1: flipping bit 7 of byte 31 of an envelope (bit 255 of ephemeral_public) never changes what opening
it answers. -/
def Obligations.Bit255OfTheEphemeralKeyIsIgnored : Prop :=
  ∀ (info : Bytes) (w : Work) (e sk : Bytes), 60 ≤ e.length →
    openEnvelope info w (e.modify 31 fun b => b ^^^ 0x80) sk = openEnvelope info w e sk

/-! ### Memory -/

/-- R82: MemWrite sets the bytes of its region and no other byte, and MemRead returns the region's bytes. -/
def Obligations.MemWriteThenMemRead : Prop :=
  ∀ (s : State) (a : Nat) (v : Bytes),
    (s.memWrite a v).memRead a v.length = v ∧
    (∀ b : Nat, b < a ∨ a + v.length ≤ b → (s.memWrite a v).bufByte b = s.bufByte b) ∧
    s.memWrite a v = { s with buf := (s.memWrite a v).buf } ∧
    (s.buf.wf → (s.memWrite a v).buf.wf) ∧
    (∀ n i : Nat, i < n → (s.memRead a n)[i]? = some (s.bufByte (a + i)) ∧ (s.memRead a n).length = n)

/-! ### The host's accesses -/

/-- R34, at the bus: an accepted CMD write, a dropped one, and the read. -/
def Obligations.CmdWriteIssuesTheCommand : Prop :=
  ∀ (s : State) (w : Word),
    (s.busy = false →
      hostAccess { addr := s.config.regBase, width := .w32, op := .write w } s =
        .next { s with cmd := w, busy := true, reply := .writeTaken }) ∧
    (s.busy = true →
      hostAccess { addr := s.config.regBase, width := .w32, op := .write w } s =
        .next { s with hazard := true, reply := .writeTaken }) ∧
    hostAccess { addr := s.config.regBase, width := .w32, op := .read } s =
      .next { s with reply := .readData .w32 s.cmd }

/-- R42 and R41's access rule: the six argument registers and CRC_STATE store a write while BUSY = 0, drop it and set
HAZARD while BUSY = 1, and a read returns the value and changes nothing. -/
def Obligations.OperandRegistersStoreAndReadBack : Prop :=
  ∀ (s : State) (v : Word),
    (s.busy = false →
      hostAccess { addr := s.config.regBase + 0x0C, width := .w32, op := .write v } s =
        .next { s with crcState := v, reply := .writeTaken } ∧
      hostAccess { addr := s.config.regBase + 0x10, width := .w32, op := .write v } s =
        .next { s with srcAddr := v, reply := .writeTaken } ∧
      hostAccess { addr := s.config.regBase + 0x14, width := .w32, op := .write v } s =
        .next { s with srcLen := v, reply := .writeTaken } ∧
      hostAccess { addr := s.config.regBase + 0x18, width := .w32, op := .write v } s =
        .next { s with keyAddr := v, reply := .writeTaken } ∧
      hostAccess { addr := s.config.regBase + 0x1C, width := .w32, op := .write v } s =
        .next { s with keyLen := v, reply := .writeTaken } ∧
      hostAccess { addr := s.config.regBase + 0x20, width := .w32, op := .write v } s =
        .next { s with dstAddr := v, reply := .writeTaken } ∧
      hostAccess { addr := s.config.regBase + 0x24, width := .w32, op := .write v } s =
        .next { s with dstCap := v, reply := .writeTaken }) ∧
    (s.busy = true → ∀ off ∈ [0x0C, 0x10, 0x14, 0x18, 0x1C, 0x20, 0x24],
      hostAccess { addr := s.config.regBase + off, width := .w32, op := .write v } s =
        .next { s with hazard := true, reply := .writeTaken }) ∧
    (∀ x ∈ [(0x0C, s.crcState), (0x10, s.srcAddr), (0x14, s.srcLen), (0x18, s.keyAddr), (0x1C, s.keyLen),
        (0x20, s.dstAddr), (0x24, s.dstCap)],
      hostAccess { addr := s.config.regBase + x.1, width := .w32, op := .read } s =
        .next { s with reply := .readData .w32 x.2 })

/-- R35: the bits of STATUS as a host reads them, their values after reset, and a host write, which clears HAZARD
if bit 1 is set and does nothing else, busy or not. -/
def Obligations.StatusFieldsAndWriteOneToClear : Prop :=
  (∀ (s : State), hostAccess { addr := s.config.regBase + 0x04, width := .w32, op := .read } s =
      .next { s with reply := .readData .w32 s.statusWord } ∧
    s.statusWord.getLsbD 0 = s.busy ∧ s.statusWord.getLsbD 1 = s.hazard ∧ s.statusWord.getLsbD 2 = s.rngFail ∧
    s.statusWord.extractLsb' 3 5 = 0 ∧ s.statusWord.extractLsb' 8 8 = s.err ∧ s.statusWord.extractLsb' 16 16 = 0) ∧
  (∀ c : Config, (State.resetWith c).statusWord = 0x00000000) ∧
  (∀ (s : State) (v : Word),
    (v.getLsbD 1 = true →
      hostAccess { addr := s.config.regBase + 0x04, width := .w32, op := .write v } s =
        .next { s with hazard := false, reply := .writeTaken }) ∧
    (v.getLsbD 1 = false →
      hostAccess { addr := s.config.regBase + 0x04, width := .w32, op := .write v } s =
        .next { s with reply := .writeTaken }))

/-- R43, and R40's access rule: a reserved offset reads 0 and ignores a write without HAZARD, busy or not; RESULT reads its
value and ignores a write in the same way. -/
def Obligations.ReservedOffsetsAndResultIgnoreWrites : Prop :=
  ∀ s : State,
    (∀ off : Nat, 0x28 ≤ off → off ≤ 0xFC → off % 4 = 0 →
      hostAccess { addr := s.config.regBase + off, width := .w32, op := .read } s =
        .next { s with reply := .readData .w32 0 } ∧
      ∀ v : Word, hostAccess { addr := s.config.regBase + off, width := .w32, op := .write v } s =
        .next { s with reply := .writeTaken }) ∧
    hostAccess { addr := s.config.regBase + 0x08, width := .w32, op := .read } s =
      .next { s with reply := .readData .w32 s.result } ∧
    (∀ v : Word, hostAccess { addr := s.config.regBase + 0x08, width := .w32, op := .write v } s =
      .next { s with reply := .writeTaken })

/-- R346: while BUSY = 1 a legal host write to CMD, CRC_STATE, an argument register or a byte of BUF changes nothing but
HAZARD; writes to STATUS are taken as when idle; writes to RESULT and to reserved offsets are ignored without HAZARD. -/
def Obligations.WritesWhileBusyAreDropped : Prop :=
  ∀ (s : State) (a : BusAccess) (v : Word), s.busy = true → a.op = .write v →
    (∀ off, busTarget s.config a = .register off →
      (off ∈ [0x00, 0x0C, 0x10, 0x14, 0x18, 0x1C, 0x20, 0x24] →
        hostAccess a s = .next { s with hazard := true, reply := .writeTaken }) ∧
      (off = 0x04 → hostAccess a s = .next { s with hazard := s.hazard && !v.getLsbD 1, reply := .writeTaken }) ∧
      (off = 0x08 ∨ 0x28 ≤ off → hostAccess a s = .next { s with reply := .writeTaken })) ∧
    (∀ off, busTarget s.config a = .buffer off →
      hostAccess a s = .next { s with hazard := true, reply := .writeTaken })

/-- R347: a legal read of BUF returns, while BUSY = 1, some value of the access width and has no other effect (only the
model's own counter of such reads advances, log entry 5); and while BUSY = 0 the stored bytes. -/
def Obligations.BufReadsWhileBusyReturnSomeValue : Prop :=
  ∀ (s : State) (a : BusAccess) (off : Nat), busTarget s.config a = .buffer off → a.op = .read →
    (s.busy = true → ∃ v : Word, v.toNat < 256 ^ widthBytes a.width ∧
      hostAccess a s = .next { s with reply := .readData a.width v, busyReads := s.busyReads + 1 }) ∧
    (s.busy = false → hostAccess a s =
      .next { s with reply := .readData a.width (BitVec.ofNat 32 (le (s.memRead off (widthBytes a.width)))) })

/-- R73 and R79: an idle write of 8, 16 or 32 bits stores its low bytes little-endian at its offset and nowhere else, and
has no other effect (`reply`, the bus answer, is the model's own field); reading it back returns them as the same
integer. That a narrow access uses the low bits of the bus word is the model's reading (log entry 11). -/
def Obligations.BufAccessesAreLittleEndian : Prop :=
  ∀ (s : State) (a : BusAccess) (off : Nat) (v : Word),
    s.busy = false → busTarget s.config a = .buffer off → a.op = .write v →
    ∃ t, hostAccess a s = .next t ∧ t = { s with buf := t.buf, reply := .writeTaken } ∧
      (∀ i, i < widthBytes a.width → t.bufByte (off + i) = v.extractLsb' (8 * i) 8) ∧
      (∀ b, b < off ∨ off + widthBytes a.width ≤ b → t.bufByte b = s.bufByte b) ∧
      hostAccess { a with op := .read } t =
        .next { t with reply := .readData a.width (BitVec.ofNat 32 (v.toNat % 256 ^ widthBytes a.width)) }

/-- R77 with R76: which accesses are bus errors (a fault of the access, which has no next state), which are refused
because they are in neither window (R80, U4), and that every other access is answered. An access at BUF_BASE + BUF_SIZE
or beyond is a bus error by the words of U3 and outside by R80 and U4: that the model takes it as outside is its own
choice, and so is the form of a bus error, a step without a next state (log entry 10). -/
def Obligations.BusErrorsAreTheAccessesR76Forbids : Prop :=
  ∀ (s : State) (a : BusAccess), s.config.wellFormed →
    (hostAccess a s = .fault .busError ↔
      ((∃ off, a.addr = s.config.regBase + off ∧ off < 256 ∧ ¬(a.width = .w32 ∧ off % 4 = 0)) ∨
       (∃ off, a.addr = s.config.bufBase + off ∧ off < s.config.bufSize ∧
          ¬(off % widthBytes a.width = 0 ∧ off + widthBytes a.width ≤ s.config.bufSize)))) ∧
    (hostAccess a s = .refused .outsideWindows ↔
      ((∀ off, off < 256 → a.addr ≠ s.config.regBase + off) ∧
       (∀ off, off < s.config.bufSize → a.addr ≠ s.config.bufBase + off))) ∧
    (hostAccess a s ≠ .fault .busError → hostAccess a s ≠ .refused .outsideWindows → ∃ t, hostAccess a s = .next t)

/-- R310, R317 and R77: a step stops only at a host access that is a bus error or in neither window; no command, no
illegal word and no reset ever stops. -/
def Obligations.OnlyHostAccessesStopAStep : Prop :=
  ∀ s : State,
    (∀ r, step s = .fault r → ∃ a rest, s.agenda = .host a :: rest ∧ busTarget s.config a = .illegal) ∧
    (∀ r, step s = .refused r →
      r = .outsideWindows ∧ ∃ a rest, s.agenda = .host a :: rest ∧ busTarget s.config a = .outside) ∧
    (s.agendaSafe = true → ∃ t, step s = .next t ∧ t.agendaSafe = true)

/-! ### Reset -/

/-- R340 (and R341, since the state may be busy): a reset's effect is one step. Nothing is said of BUF, which is any value
(R343). -/
def Obligations.ResetRestoresTheResetValues : Prop :=
  ∀ (s : State) (rest : List Turn), s.agenda = .reset :: rest → ∃ t, step s = .next t ∧
    t.cmd = 0x00000000 ∧ t.statusWord = 0x00000000 ∧ t.busy = false ∧ t.hazard = false ∧ t.rngFail = false ∧
    t.err = 0x00 ∧ t.result = 0x00000000 ∧ t.crcState = 0xFFFFFFFF ∧
    t.srcAddr = 0x00000000 ∧ t.srcLen = 0x00000000 ∧ t.keyAddr = 0x00000000 ∧ t.keyLen = 0x00000000 ∧
    t.dstAddr = 0x00000000 ∧ t.dstCap = 0x00000000 ∧ t.secrets = Secrets.zero ∧ t.config = s.config

/-- R48: the state after reset, for every configuration; `State.reset` is one of them. BUF is any value, so nothing is said
of it. -/
def Obligations.StateAfterResetHoldsR48 : Prop :=
  (∃ c, State.reset = State.resetWith c) ∧
  ∀ c : Config,
    (State.resetWith c).cmd = 0x00000000 ∧ (State.resetWith c).busy = false ∧ (State.resetWith c).hazard = false ∧
    (State.resetWith c).rngFail = false ∧ (State.resetWith c).err = 0x00 ∧ (State.resetWith c).result = 0x00000000 ∧
    (State.resetWith c).crcState = 0xFFFFFFFF ∧ (State.resetWith c).srcAddr = 0x00000000 ∧
    (State.resetWith c).srcLen = 0x00000000 ∧ (State.resetWith c).keyAddr = 0x00000000 ∧
    (State.resetWith c).keyLen = 0x00000000 ∧ (State.resetWith c).dstAddr = 0x00000000 ∧
    (State.resetWith c).dstCap = 0x00000000 ∧ (State.resetWith c).secrets = Secrets.zero

/-! ### The whole machine -/

/-- The invariant of the block is kept by every step from every state that has it. -/
def Obligations.EveryStepKeepsTheInvariant : Prop :=
  ∀ s t : State, s.Inv → step s = .next t → t.Inv

/-- The invariant holds at reset, for every configuration that meets R6, and so at `State.reset`. -/
def Obligations.InvariantHoldsAtReset : Prop :=
  (∀ c : Config, c.wellFormed → (State.resetWith c).Inv) ∧ State.reset.Inv

/-- R44, R30 and R311 over every run: whatever the host, the entropy source and the reset input do, in every state between
two steps SECRETS is zero, ERR is a code of R311, an error left RESULT at 0 and BUF's bytes lie inside BUF. -/
def Obligations.SecretsAreZeroInEveryReachableState : Prop :=
  ∀ s : State, s.Reachable →
    s.secrets = Secrets.zero ∧ s.err ∈ completionCodes ∧ (s.err ≠ 0x00 → s.readReg .result = 0x00000000) ∧
    s.buf.wf ∧ (∀ c ∈ s.buf, c.1 < s.config.bufSize) ∧ (s.err = 0x06 → s.rngFail = true)

/-- R38: RNG_FAIL is set by the completion of a KEYGEN or ENCRYPT that a draw failed in, and by nothing else; only reset
clears it; and while it is 1 a KEYGEN or ENCRYPT whose argument checks pass fails with RandomSourceFailure and draws
nothing. The agenda names whose step it is (log entry 7). -/
def Obligations.RngFailIsStickyUntilReset : Prop :=
  (∀ s t : State, step s = .next t → s.rngFail = true → s.agenda.head? ≠ some .reset → t.rngFail = true) ∧
  (∀ s t : State, step s = .next t → s.rngFail = false → t.rngFail = true →
    s.busy = true ∧ (decode s.cmd = .command .keygen ∨ decode s.cmd = .command .encrypt) ∧ t.err = 0x06 ∧
    (s.work.nextAnswer 32 = none ∨ s.work.advance.nextAnswer 12 = none)) ∧
  (∀ (i : Instr) (s t : State), exec i s = .next t → t.err = 0x06 → t.rngFail = true) ∧
  (∀ s : State, s.rngFail = true →
    (64 ≤ s.dstCap.toNat → s.dstAddr.toNat + 64 ≤ s.config.bufSize →
      exec .keygen s =
        .next { s with result := 0x00000000, err := 0x06, busy := false, secrets := Secrets.zero }) ∧
    (s.keyLen.toNat = 32 → s.srcLen.toNat + 60 ≤ s.dstCap.toNat →
      s.srcAddr.toNat + s.srcLen.toNat ≤ s.config.bufSize → s.keyAddr.toNat + 32 ≤ s.config.bufSize →
      s.dstAddr.toNat + (s.srcLen.toNat + 60) ≤ s.config.bufSize →
      exec .encrypt s =
        .next { s with result := 0x00000000, err := 0x06, busy := false, secrets := Secrets.zero }))

/-- R37: HAZARD is set when, and only when, a host write is dropped because BUSY = 1; it is cleared by a STATUS write with
bit 1 set and by reset, and by nothing else; no command reads or writes it. The agenda names whose step it is (log
entry 7). -/
def Obligations.HazardRecordsDroppedWrites : Prop :=
  (∀ (s : State) (a : BusAccess) (v : Word), s.busy = true → a.op = .write v →
    ((∃ off, busTarget s.config a = .buffer off) ∨
     (∃ off ∈ [0x00, 0x0C, 0x10, 0x14, 0x18, 0x1C, 0x20, 0x24], busTarget s.config a = .register off)) →
    hostAccess a s = .next { s with hazard := true, reply := .writeTaken }) ∧
  (∀ s t : State, step s = .next t → s.hazard = false → t.hazard = true →
    s.busy = true ∧ ∃ a v, s.agenda.head? = some (.host a) ∧ a.op = .write v ∧
      ((∃ off, busTarget s.config a = .buffer off) ∨
       (∃ off ∈ [0x00, 0x0C, 0x10, 0x14, 0x18, 0x1C, 0x20, 0x24], busTarget s.config a = .register off))) ∧
  (∀ (s : State) (v : Word), v.getLsbD 1 = true →
    hostAccess { addr := s.config.regBase + 0x04, width := .w32, op := .write v } s =
      .next { s with hazard := false, reply := .writeTaken }) ∧
  (∀ s : State, s.agenda.head? = some .reset → ∃ t, step s = .next t ∧ t.hazard = false) ∧
  (∀ s t : State, step s = .next t → s.hazard = true → t.hazard = false →
    s.agenda.head? = some .reset ∨
    ∃ v : Word, v.getLsbD 1 = true ∧
      s.agenda.head? = some (.host { addr := s.config.regBase + 0x04, width := .w32, op := .write v })) ∧
  (∀ (i : Instr) (s t : State) (b : Bool), exec i s = .next t →
    t.hazard = s.hazard ∧ exec i { s with hazard := b } = .next { t with hazard := b })

/-- R36: BUSY is set only by an accepted CMD write and cleared only by the engine's completion step or by reset; while it
is 1 the pending command and its operands do not change (R90). The agenda names whose step it is: with none lined up the
engine's (log entry 7). -/
def Obligations.BusyFromCmdWriteToCompletion : Prop :=
  ∀ s t : State, step s = .next t →
    (s.busy = false → t.busy = true →
      ∃ w, s.agenda.head? = some (.host { addr := s.config.regBase, width := .w32, op := .write w }) ∧ t.cmd = w) ∧
    (s.busy = true → t.busy = false →
      s.agenda = [] ∨ s.agenda.head? = some .engine ∨ s.agenda.head? = some .reset) ∧
    (s.busy = true → t.busy = true →
      t.cmd = s.cmd ∧ t.srcAddr = s.srcAddr ∧ t.srcLen = s.srcLen ∧ t.keyAddr = s.keyAddr ∧ t.keyLen = s.keyLen ∧
      t.dstAddr = s.dstAddr ∧ t.dstCap = s.dstCap ∧ t.crcState = s.crcState ∧ t.buf = s.buf)

/-- R136 and R107: what a command answers depends only on the argument registers its row of R103 names, the bytes of its
input regions, CRC_STATE, RNG_FAIL, BUF_SIZE, HKDF_INFO and the oracle's answers. Two states that agree on these, and may
differ in everything else (the other registers, every other byte of BUF, CMD, HAZARD, the agenda), get the same ERR,
RESULT, CRC_STATE, RNG_FAIL and destination bytes. -/
def Obligations.CommandsReadOnlyTheirInputs : Prop :=
  ∀ (i : Instr) (s s' t t' : State),
    s.config.bufSize = s'.config.bufSize → s.config.hkdfInfo = s'.config.hkdfInfo →
    s.crcState = s'.crcState → s.rngFail = s'.rngFail → s.entropy = s'.entropy → s.draws = s'.draws →
    (readsSrc i = true → s.srcAddr = s'.srcAddr ∧ s.srcLen = s'.srcLen ∧
      s.memRead s.srcAddr.toNat s.srcLen.toNat = s'.memRead s'.srcAddr.toNat s'.srcLen.toNat) →
    (readsKey i = true → s.keyAddr = s'.keyAddr ∧ s.keyLen = s'.keyLen ∧
      s.memRead s.keyAddr.toNat 32 = s'.memRead s'.keyAddr.toNat 32) →
    (writesDst i = true → s.dstAddr = s'.dstAddr ∧ s.dstCap = s'.dstCap) →
    exec i s = .next t → exec i s' = .next t' →
    t.err = t'.err ∧ t.result = t'.result ∧ t.crcState = t'.crcState ∧ t.rngFail = t'.rngFail ∧
    t.entropy = t'.entropy ∧ t.draws = t'.draws ∧
    (t.err = 0x00 →
      t.memRead s.dstAddr.toNat (outlen i s) = t'.memRead s.dstAddr.toNat (outlen i s) ∨ writesDst i = false)

/-- R140, R341. With every lined-up turn safe and no reset among them, a pending command completes: after some of those
turns, which have left the command and its operands as they were (R90), the next step is its completion step, `exec` of
the command that CMD decodes to, or the completion of an illegal word. With resets among them, BUSY is 0 after at most
one step more than there are turns: the command has completed or a reset has abandoned it. The bound rests on the
model's choice that the engine has the turn when none is lined up, for which R140 gives fairness only (log entry 7). -/
def Obligations.EveryPendingCommandCompletes : Prop :=
  (∀ s : State, s.busy = true → s.agendaSafe = true → (∀ turn ∈ s.agenda, turn ≠ .reset) →
    ∃ k u t, k ≤ s.agenda.length ∧ Sys2Proof.core.run k s = .next u ∧
      u = { s with
        agenda := s.agenda.drop k
        hazard := u.hazard
        reply := u.reply
        busyReads := u.busyReads } ∧
      step u = .next t ∧ t.busy = false ∧
      (∀ i, decode s.cmd = .command i → exec i { u with agenda := s.agenda.drop (k + 1) } = .next t) ∧
      (∀ why, decode s.cmd = .illegal why →
        t = { u with agenda := s.agenda.drop (k + 1), result := 0x00000000, err := 0x10, busy := false,
                     secrets := Secrets.zero })) ∧
  (∀ s : State, s.busy = true → s.agendaSafe = true →
    ∃ k t, k ≤ s.agenda.length + 1 ∧ Sys2Proof.core.run k s = .next t ∧ t.busy = false)
end

