-- ==== Sys2Proof/Laws/Bytes.lean ====
section
/-! SUPPORT. Lengths and round trips of the byte-string conversions (R10, R11). -/

namespace Sys2Proof.Machine

@[simp] theorem zeros_length (n : Nat) : (zeros n).length = n := by simp [zeros]

@[simp] theorem leBytes_length (n x : Nat) : (leBytes n x).length = n := by
  induction n generalizing x with
  | zero => rfl
  | succ n ih => simp [leBytes, ih]

@[simp] theorem beBytes_length (n x : Nat) : (beBytes n x).length = n := by simp [beBytes]

theorem le_lt (bs : Bytes) : le bs < 256 ^ bs.length := by
  induction bs with
  | nil => simp [le]
  | cons b bs ih =>
    have := b.isLt
    simp only [le, List.length_cons, pow_succ]
    omega

theorem le_leBytes (n x : Nat) : le (leBytes n x) = x % 256 ^ n := by
  induction n generalizing x with
  | zero => simp [leBytes, le, Nat.mod_one]
  | succ n ih =>
    have h : 256 ^ (n + 1) = 256 * 256 ^ n := pow_succ' 256 n
    rw [leBytes, le, ih, BitVec.toNat_ofNat, h, Nat.mod_mul]

theorem leBytes_le (bs : Bytes) : leBytes bs.length (le bs) = bs := by
  induction bs with
  | nil => rfl
  | cons b bs ih =>
    have hb := b.isLt
    have h1 : BitVec.ofNat 8 (b.toNat + 256 * le bs) = b := by
      apply BitVec.eq_of_toNat_eq
      simp only [BitVec.toNat_ofNat]
      omega
    have h2 : (b.toNat + 256 * le bs) / 256 = le bs := by omega
    simp only [leBytes, le, List.length_cons, h1, h2, ih]

theorem slice_length (bs : Bytes) (a b : Nat) (h : b ≤ bs.length) : (slice bs a b).length = b - a := by
  simp only [slice, List.length_take, List.length_drop]
  omega

theorem xorBytes_length (x y : Bytes) : (xorBytes x y).length = min x.length y.length := by
  simp [xorBytes]

/-- Exclusive or with the same string twice gives the first string back, where it is the shorter one. -/
theorem xorBytes_xorBytes (x y : Bytes) (h : x.length ≤ y.length) : xorBytes (xorBytes x y) y = x := by
  induction x generalizing y with
  | nil => rfl
  | cons a x ih =>
    cases y with
    | nil => simp at h
    | cons b y =>
      have h' : x.length ≤ y.length := by simpa using h
      simpa [xorBytes, BitVec.xor_assoc] using ih y h'

theorem chunks_flatten (n k : Nat) (bs : Bytes) (h : bs.length ≤ n * k) : (chunks n k bs).flatten = bs := by
  induction k generalizing bs with
  | zero => simp at h; simp [chunks, h]
  | succ k ih =>
    have : (bs.drop n).length ≤ n * k := by
      simp only [List.length_drop]
      rw [Nat.mul_succ] at h
      omega
    simp [chunks, ih _ this]

theorem chunks_length_le {n k : Nat} {bs c : Bytes} (h : c ∈ chunks n k bs) : c.length ≤ n := by
  induction k generalizing bs with
  | zero => simp [chunks] at h
  | succ k ih =>
    rcases List.mem_cons.1 h with rfl | h
    · simp
    · exact ih h

/-- Where the bytes suffice, every chunk is whole. -/
theorem chunks_length_eq {n k : Nat} {bs c : Bytes} (hk : n * k ≤ bs.length) (h : c ∈ chunks n k bs) : c.length = n := by
  induction k generalizing bs with
  | zero => simp [chunks] at h
  | succ k ih =>
    rw [Nat.mul_succ] at hk
    rcases List.mem_cons.1 h with rfl | h
    · simp only [List.length_take]; omega
    · exact ih (by simp only [List.length_drop]; omega) h

end Sys2Proof.Machine
end

