-- ==== Sys2Proof/Laws/Lengths.lean ====
section
/-! SUPPORT. The lengths of what the primitives answer: keys, digests, cipher blocks, envelopes and plaintexts. -/

namespace Sys2Proof.Machine

/-! ### X25519 -/

@[simp] theorem clamp_length (k : Bytes) : (clamp k).length = k.length := by simp [clamp]

@[simp] theorem x25519_length (k u : Bytes) : (x25519 k u).length = 32 := by simp [x25519, encodeU]

/-! ### SHA-256, HMAC, HKDF -/

@[simp] theorem sha256_length (m : Bytes) : (sha256 m).length = 32 := by simp [sha256, shaDigest]

@[simp] theorem hmac_length (key m : Bytes) : (hmac key m).length = 32 := by simp [hmac]

@[simp] theorem hkdfExtract_length (salt ikm : Bytes) : (hkdfExtract salt ikm).length = 32 := by simp [hkdfExtract]

theorem hkdfBlocks_length (prk info : Bytes) (n i : Nat) (t : Bytes) : (hkdfBlocks prk info n i t).length = 32 * n := by
  induction n generalizing i t with
  | zero => rfl
  | succ n ih => simp [hkdfBlocks, ih]; omega

@[simp] theorem hkdfExpand_length (prk info : Bytes) (L : Nat) : (hkdfExpand prk info L).length = L := by
  simp only [hkdfExpand, List.length_take, hkdfBlocks_length]
  omega

@[simp] theorem kdf_length (info ss : Bytes) : (kdf info ss).length = 32 := by simp [kdf]

/-! ### AES-256 -/

theorem rcon_length (j : Nat) : (rcon j).length = 4 := by simp [rcon]

theorem nextKeyWord_length (i : Nat) (ws : List Bytes) (h8 : 8 ≤ ws.length) (h : ∀ w ∈ ws, w.length = 4) :
    (nextKeyWord i ws).length = 4 := by
  have h0 : (ws.getD 0 []).length = 4 := by
    rw [List.getD_eq_getElem _ _ (by omega)]; exact h _ (List.getElem_mem _)
  have h7 : (ws.getD 7 []).length = 4 := by
    rw [List.getD_eq_getElem _ _ (by omega)]; exact h _ (List.getElem_mem _)
  simp only [nextKeyWord]
  split_ifs <;>
    simp only [xorBytes_length, h0, h7, subWord, rotWord, rcon_length, List.length_map, List.length_append,
      List.length_drop, List.length_take] <;> omega

theorem extendKey_spec (n i : Nat) (ws : List Bytes) (h8 : 8 ≤ ws.length) (h : ∀ w ∈ ws, w.length = 4) :
    (extendKey n i ws).length = ws.length + n ∧ ∀ w ∈ extendKey n i ws, w.length = 4 := by
  induction n generalizing i ws with
  | zero => exact ⟨rfl, h⟩
  | succ n ih =>
    have := ih (i + 1) (nextKeyWord i ws :: ws) (by simp; omega) (by
      intro w hw
      rcases List.mem_cons.1 hw with rfl | hw
      · exact nextKeyWord_length i ws h8 h
      · exact h w hw)
    refine ⟨?_, this.2⟩
    rw [extendKey, this.1]
    simp; omega

theorem chunks_length (n k : Nat) (bs : Bytes) : (chunks n k bs).length = k := by
  induction k generalizing bs with
  | zero => rfl
  | succ k ih => simp [chunks, ih]

/-- The key expansion gives 60 words of 4 bytes (R243). -/
theorem keyExpansion_spec (key : Bytes) (h : key.length = 32) :
    (keyExpansion key).length = 60 ∧ ∀ w ∈ keyExpansion key, w.length = 4 := by
  have := extendKey_spec 52 8 (chunks 4 8 key).reverse (by simp [chunks_length])
    (fun w hw => chunks_length_eq (by omega) (List.mem_reverse.1 hw))
  simpa [keyExpansion, chunks_length] using this

theorem flatten_length_of_all (n : Nat) (ws : List Bytes) (h : ∀ w ∈ ws, w.length = n) :
    ws.flatten.length = ws.length * n := by
  induction ws with
  | nil => simp
  | cons w ws ih =>
    simp only [List.flatten_cons, List.length_append, List.length_cons, h w List.mem_cons_self,
      ih fun x hx => h x (List.mem_cons_of_mem _ hx)]
    ring

theorem addRoundKey_length (w : List Bytes) (n : Nat) (s : Bytes) (hw : w.length = 60) (h4 : ∀ x ∈ w, x.length = 4)
    (hn : n ≤ 14) (hs : s.length = 16) : (addRoundKey w n s).length = 16 := by
  have hlen : ((w.drop (4 * n)).take 4).length = 4 := by simp only [List.length_take, List.length_drop]; omega
  have := flatten_length_of_all 4 ((w.drop (4 * n)).take 4) fun x hx => h4 x (List.mem_of_mem_drop (List.mem_of_mem_take hx))
  rw [addRoundKey, xorBytes_length, this, hlen, hs]
  rfl

theorem mixColumns_length (s : Bytes) : (mixColumns s).length = 16 := by
  simp [mixColumns, mixColumn, List.range, List.range.loop]

theorem shiftRows_length (s : Bytes) : (shiftRows s).length = 16 := by simp [shiftRows]

theorem aesRounds_length (w : List Bytes) (hw : w.length = 60) (h4 : ∀ x ∈ w, x.length = 4) (k n : Nat) (s : Bytes)
    (hn : n + k ≤ 15) (hs : s.length = 16) : (aesRounds w k n s).length = 16 := by
  induction k generalizing n s with
  | zero => exact hs
  | succ k ih => exact ih (n + 1) _ (by omega) (addRoundKey_length w n _ hw h4 (by omega) (mixColumns_length _))

/-- AES-256 maps a block to a block (R246). -/
theorem aes256_length (key input : Bytes) (hk : key.length = 32) :
    (aes256 key input).length = 16 := by
  obtain ⟨hw, h4⟩ := keyExpansion_spec key hk
  exact addRoundKey_length _ 14 _ hw h4 le_rfl (shiftRows_length _)

/-! ### Counter mode -/

theorem gctrBlocks_length (E : Bytes → Bytes) (hE : ∀ b, (E b).length = 16) (cb : Bytes) (xs : List Bytes)
    (hx : ∀ x ∈ xs, x.length ≤ 16) : (gctrBlocks E cb xs).length = xs.flatten.length := by
  induction xs generalizing cb with
  | nil => rfl
  | cons x xs ih =>
    have h1 := hx x List.mem_cons_self
    rw [gctrBlocks, List.length_append, xorBytes_length, hE cb,
      ih (inc32 cb) fun y hy => hx y (List.mem_cons_of_mem _ hy)]
    simp; omega

/-- Counter mode keeps the length (R250). -/
theorem gctr_length (E : Bytes → Bytes) (hE : ∀ b, (E b).length = 16) (icb x : Bytes) :
    (gctr E icb x).length = x.length := by
  rw [gctr, gctrBlocks_length E hE icb _ fun c hc => chunks_length_le hc, chunks_flatten]
  omega

theorem ghash_length (h x : Bytes) : (ghash h x).length = 16 := by simp [ghash, ofBlock]

/-- The text under GCM has the length of its input (R252). -/
theorem gcmText_length (k iv x : Bytes) (hk : k.length = 32) : (gcmText (aes256 k) iv x).length = x.length :=
  gctr_length _ (fun b => aes256_length k b hk) _ _

/-- The tag has 16 bytes (R252). -/
theorem gcmTag_length (k iv c a : Bytes) (hk : k.length = 32) : (gcmTag (aes256 k) iv c a).length = 16 := by
  rw [gcmTag, gctr_length _ (fun b => aes256_length k b hk)]
  exact ghash_length _ _

end Sys2Proof.Machine
end

