-- ==== Sys2Proof/Laws/State.lean ====
section
/-! SUPPORT. One lemma per field per update of State, true by rfl, so that no later proof unfolds an update; and the
completion step written out as one record, once for success and once for an error. -/

namespace Sys2Proof.Machine

/-! ### takeWork -/

@[simp] theorem takeWork_config (s : State) (w : Work) : (s.takeWork w).config = s.config := rfl
@[simp] theorem takeWork_cmd (s : State) (w : Work) : (s.takeWork w).cmd = s.cmd := rfl
@[simp] theorem takeWork_busy (s : State) (w : Work) : (s.takeWork w).busy = s.busy := rfl
@[simp] theorem takeWork_hazard (s : State) (w : Work) : (s.takeWork w).hazard = s.hazard := rfl
@[simp] theorem takeWork_rngFail (s : State) (w : Work) : (s.takeWork w).rngFail = s.rngFail := rfl
@[simp] theorem takeWork_err (s : State) (w : Work) : (s.takeWork w).err = s.err := rfl
@[simp] theorem takeWork_result (s : State) (w : Work) : (s.takeWork w).result = s.result := rfl
@[simp] theorem takeWork_crcState (s : State) (w : Work) : (s.takeWork w).crcState = s.crcState := rfl
@[simp] theorem takeWork_srcAddr (s : State) (w : Work) : (s.takeWork w).srcAddr = s.srcAddr := rfl
@[simp] theorem takeWork_srcLen (s : State) (w : Work) : (s.takeWork w).srcLen = s.srcLen := rfl
@[simp] theorem takeWork_keyAddr (s : State) (w : Work) : (s.takeWork w).keyAddr = s.keyAddr := rfl
@[simp] theorem takeWork_keyLen (s : State) (w : Work) : (s.takeWork w).keyLen = s.keyLen := rfl
@[simp] theorem takeWork_dstAddr (s : State) (w : Work) : (s.takeWork w).dstAddr = s.dstAddr := rfl
@[simp] theorem takeWork_dstCap (s : State) (w : Work) : (s.takeWork w).dstCap = s.dstCap := rfl
@[simp] theorem takeWork_buf (s : State) (w : Work) : (s.takeWork w).buf = s.buf := rfl
@[simp] theorem takeWork_secrets (s : State) (w : Work) : (s.takeWork w).secrets = w.secrets := rfl
@[simp] theorem takeWork_agenda (s : State) (w : Work) : (s.takeWork w).agenda = s.agenda := rfl
@[simp] theorem takeWork_reply (s : State) (w : Work) : (s.takeWork w).reply = s.reply := rfl
@[simp] theorem takeWork_entropy (s : State) (w : Work) : (s.takeWork w).entropy = w.entropy := rfl
@[simp] theorem takeWork_draws (s : State) (w : Work) : (s.takeWork w).draws = w.draws := rfl
@[simp] theorem takeWork_busyReads (s : State) (w : Work) : (s.takeWork w).busyReads = s.busyReads := rfl
@[simp] theorem takeWork_resets (s : State) (w : Work) : (s.takeWork w).resets = s.resets := rfl

/-! ### latchRngFail -/

@[simp] theorem latchRngFail_config (s : State) (b : Bool) : (s.latchRngFail b).config = s.config := rfl
@[simp] theorem latchRngFail_cmd (s : State) (b : Bool) : (s.latchRngFail b).cmd = s.cmd := rfl
@[simp] theorem latchRngFail_busy (s : State) (b : Bool) : (s.latchRngFail b).busy = s.busy := rfl
@[simp] theorem latchRngFail_hazard (s : State) (b : Bool) : (s.latchRngFail b).hazard = s.hazard := rfl
@[simp] theorem latchRngFail_rngFail (s : State) (b : Bool) : (s.latchRngFail b).rngFail = (s.rngFail || b) := rfl
@[simp] theorem latchRngFail_err (s : State) (b : Bool) : (s.latchRngFail b).err = s.err := rfl
@[simp] theorem latchRngFail_result (s : State) (b : Bool) : (s.latchRngFail b).result = s.result := rfl
@[simp] theorem latchRngFail_crcState (s : State) (b : Bool) : (s.latchRngFail b).crcState = s.crcState := rfl
@[simp] theorem latchRngFail_srcAddr (s : State) (b : Bool) : (s.latchRngFail b).srcAddr = s.srcAddr := rfl
@[simp] theorem latchRngFail_srcLen (s : State) (b : Bool) : (s.latchRngFail b).srcLen = s.srcLen := rfl
@[simp] theorem latchRngFail_keyAddr (s : State) (b : Bool) : (s.latchRngFail b).keyAddr = s.keyAddr := rfl
@[simp] theorem latchRngFail_keyLen (s : State) (b : Bool) : (s.latchRngFail b).keyLen = s.keyLen := rfl
@[simp] theorem latchRngFail_dstAddr (s : State) (b : Bool) : (s.latchRngFail b).dstAddr = s.dstAddr := rfl
@[simp] theorem latchRngFail_dstCap (s : State) (b : Bool) : (s.latchRngFail b).dstCap = s.dstCap := rfl
@[simp] theorem latchRngFail_buf (s : State) (b : Bool) : (s.latchRngFail b).buf = s.buf := rfl
@[simp] theorem latchRngFail_secrets (s : State) (b : Bool) : (s.latchRngFail b).secrets = s.secrets := rfl
@[simp] theorem latchRngFail_agenda (s : State) (b : Bool) : (s.latchRngFail b).agenda = s.agenda := rfl
@[simp] theorem latchRngFail_reply (s : State) (b : Bool) : (s.latchRngFail b).reply = s.reply := rfl
@[simp] theorem latchRngFail_entropy (s : State) (b : Bool) : (s.latchRngFail b).entropy = s.entropy := rfl
@[simp] theorem latchRngFail_draws (s : State) (b : Bool) : (s.latchRngFail b).draws = s.draws := rfl
@[simp] theorem latchRngFail_busyReads (s : State) (b : Bool) : (s.latchRngFail b).busyReads = s.busyReads := rfl
@[simp] theorem latchRngFail_resets (s : State) (b : Bool) : (s.latchRngFail b).resets = s.resets := rfl

/-! ### zeroSecrets -/

@[simp] theorem zeroSecrets_config (s : State) : (s.zeroSecrets).config = s.config := rfl
@[simp] theorem zeroSecrets_cmd (s : State) : (s.zeroSecrets).cmd = s.cmd := rfl
@[simp] theorem zeroSecrets_busy (s : State) : (s.zeroSecrets).busy = s.busy := rfl
@[simp] theorem zeroSecrets_hazard (s : State) : (s.zeroSecrets).hazard = s.hazard := rfl
@[simp] theorem zeroSecrets_rngFail (s : State) : (s.zeroSecrets).rngFail = s.rngFail := rfl
@[simp] theorem zeroSecrets_err (s : State) : (s.zeroSecrets).err = s.err := rfl
@[simp] theorem zeroSecrets_result (s : State) : (s.zeroSecrets).result = s.result := rfl
@[simp] theorem zeroSecrets_crcState (s : State) : (s.zeroSecrets).crcState = s.crcState := rfl
@[simp] theorem zeroSecrets_srcAddr (s : State) : (s.zeroSecrets).srcAddr = s.srcAddr := rfl
@[simp] theorem zeroSecrets_srcLen (s : State) : (s.zeroSecrets).srcLen = s.srcLen := rfl
@[simp] theorem zeroSecrets_keyAddr (s : State) : (s.zeroSecrets).keyAddr = s.keyAddr := rfl
@[simp] theorem zeroSecrets_keyLen (s : State) : (s.zeroSecrets).keyLen = s.keyLen := rfl
@[simp] theorem zeroSecrets_dstAddr (s : State) : (s.zeroSecrets).dstAddr = s.dstAddr := rfl
@[simp] theorem zeroSecrets_dstCap (s : State) : (s.zeroSecrets).dstCap = s.dstCap := rfl
@[simp] theorem zeroSecrets_buf (s : State) : (s.zeroSecrets).buf = s.buf := rfl
@[simp] theorem zeroSecrets_secrets (s : State) : (s.zeroSecrets).secrets = Secrets.zero := rfl
@[simp] theorem zeroSecrets_agenda (s : State) : (s.zeroSecrets).agenda = s.agenda := rfl
@[simp] theorem zeroSecrets_reply (s : State) : (s.zeroSecrets).reply = s.reply := rfl
@[simp] theorem zeroSecrets_entropy (s : State) : (s.zeroSecrets).entropy = s.entropy := rfl
@[simp] theorem zeroSecrets_draws (s : State) : (s.zeroSecrets).draws = s.draws := rfl
@[simp] theorem zeroSecrets_busyReads (s : State) : (s.zeroSecrets).busyReads = s.busyReads := rfl
@[simp] theorem zeroSecrets_resets (s : State) : (s.zeroSecrets).resets = s.resets := rfl

/-! ### clearBusy -/

@[simp] theorem clearBusy_config (s : State) : (s.clearBusy).config = s.config := rfl
@[simp] theorem clearBusy_cmd (s : State) : (s.clearBusy).cmd = s.cmd := rfl
@[simp] theorem clearBusy_busy (s : State) : (s.clearBusy).busy = false := rfl
@[simp] theorem clearBusy_hazard (s : State) : (s.clearBusy).hazard = s.hazard := rfl
@[simp] theorem clearBusy_rngFail (s : State) : (s.clearBusy).rngFail = s.rngFail := rfl
@[simp] theorem clearBusy_err (s : State) : (s.clearBusy).err = s.err := rfl
@[simp] theorem clearBusy_result (s : State) : (s.clearBusy).result = s.result := rfl
@[simp] theorem clearBusy_crcState (s : State) : (s.clearBusy).crcState = s.crcState := rfl
@[simp] theorem clearBusy_srcAddr (s : State) : (s.clearBusy).srcAddr = s.srcAddr := rfl
@[simp] theorem clearBusy_srcLen (s : State) : (s.clearBusy).srcLen = s.srcLen := rfl
@[simp] theorem clearBusy_keyAddr (s : State) : (s.clearBusy).keyAddr = s.keyAddr := rfl
@[simp] theorem clearBusy_keyLen (s : State) : (s.clearBusy).keyLen = s.keyLen := rfl
@[simp] theorem clearBusy_dstAddr (s : State) : (s.clearBusy).dstAddr = s.dstAddr := rfl
@[simp] theorem clearBusy_dstCap (s : State) : (s.clearBusy).dstCap = s.dstCap := rfl
@[simp] theorem clearBusy_buf (s : State) : (s.clearBusy).buf = s.buf := rfl
@[simp] theorem clearBusy_secrets (s : State) : (s.clearBusy).secrets = s.secrets := rfl
@[simp] theorem clearBusy_agenda (s : State) : (s.clearBusy).agenda = s.agenda := rfl
@[simp] theorem clearBusy_reply (s : State) : (s.clearBusy).reply = s.reply := rfl
@[simp] theorem clearBusy_entropy (s : State) : (s.clearBusy).entropy = s.entropy := rfl
@[simp] theorem clearBusy_draws (s : State) : (s.clearBusy).draws = s.draws := rfl
@[simp] theorem clearBusy_busyReads (s : State) : (s.clearBusy).busyReads = s.busyReads := rfl
@[simp] theorem clearBusy_resets (s : State) : (s.clearBusy).resets = s.resets := rfl

/-! ### setHazard -/

@[simp] theorem setHazard_config (s : State) : (s.setHazard).config = s.config := rfl
@[simp] theorem setHazard_cmd (s : State) : (s.setHazard).cmd = s.cmd := rfl
@[simp] theorem setHazard_busy (s : State) : (s.setHazard).busy = s.busy := rfl
@[simp] theorem setHazard_hazard (s : State) : (s.setHazard).hazard = true := rfl
@[simp] theorem setHazard_rngFail (s : State) : (s.setHazard).rngFail = s.rngFail := rfl
@[simp] theorem setHazard_err (s : State) : (s.setHazard).err = s.err := rfl
@[simp] theorem setHazard_result (s : State) : (s.setHazard).result = s.result := rfl
@[simp] theorem setHazard_crcState (s : State) : (s.setHazard).crcState = s.crcState := rfl
@[simp] theorem setHazard_srcAddr (s : State) : (s.setHazard).srcAddr = s.srcAddr := rfl
@[simp] theorem setHazard_srcLen (s : State) : (s.setHazard).srcLen = s.srcLen := rfl
@[simp] theorem setHazard_keyAddr (s : State) : (s.setHazard).keyAddr = s.keyAddr := rfl
@[simp] theorem setHazard_keyLen (s : State) : (s.setHazard).keyLen = s.keyLen := rfl
@[simp] theorem setHazard_dstAddr (s : State) : (s.setHazard).dstAddr = s.dstAddr := rfl
@[simp] theorem setHazard_dstCap (s : State) : (s.setHazard).dstCap = s.dstCap := rfl
@[simp] theorem setHazard_buf (s : State) : (s.setHazard).buf = s.buf := rfl
@[simp] theorem setHazard_secrets (s : State) : (s.setHazard).secrets = s.secrets := rfl
@[simp] theorem setHazard_agenda (s : State) : (s.setHazard).agenda = s.agenda := rfl
@[simp] theorem setHazard_reply (s : State) : (s.setHazard).reply = s.reply := rfl
@[simp] theorem setHazard_entropy (s : State) : (s.setHazard).entropy = s.entropy := rfl
@[simp] theorem setHazard_draws (s : State) : (s.setHazard).draws = s.draws := rfl
@[simp] theorem setHazard_busyReads (s : State) : (s.setHazard).busyReads = s.busyReads := rfl
@[simp] theorem setHazard_resets (s : State) : (s.setHazard).resets = s.resets := rfl

/-! ### writeStatus -/

@[simp] theorem writeStatus_config (s : State) (v : Word) : (s.writeStatus v).config = s.config := rfl
@[simp] theorem writeStatus_cmd (s : State) (v : Word) : (s.writeStatus v).cmd = s.cmd := rfl
@[simp] theorem writeStatus_busy (s : State) (v : Word) : (s.writeStatus v).busy = s.busy := rfl
@[simp] theorem writeStatus_hazard (s : State) (v : Word) : (s.writeStatus v).hazard = (s.hazard && !v.getLsbD 1) := rfl
@[simp] theorem writeStatus_rngFail (s : State) (v : Word) : (s.writeStatus v).rngFail = s.rngFail := rfl
@[simp] theorem writeStatus_err (s : State) (v : Word) : (s.writeStatus v).err = s.err := rfl
@[simp] theorem writeStatus_result (s : State) (v : Word) : (s.writeStatus v).result = s.result := rfl
@[simp] theorem writeStatus_crcState (s : State) (v : Word) : (s.writeStatus v).crcState = s.crcState := rfl
@[simp] theorem writeStatus_srcAddr (s : State) (v : Word) : (s.writeStatus v).srcAddr = s.srcAddr := rfl
@[simp] theorem writeStatus_srcLen (s : State) (v : Word) : (s.writeStatus v).srcLen = s.srcLen := rfl
@[simp] theorem writeStatus_keyAddr (s : State) (v : Word) : (s.writeStatus v).keyAddr = s.keyAddr := rfl
@[simp] theorem writeStatus_keyLen (s : State) (v : Word) : (s.writeStatus v).keyLen = s.keyLen := rfl
@[simp] theorem writeStatus_dstAddr (s : State) (v : Word) : (s.writeStatus v).dstAddr = s.dstAddr := rfl
@[simp] theorem writeStatus_dstCap (s : State) (v : Word) : (s.writeStatus v).dstCap = s.dstCap := rfl
@[simp] theorem writeStatus_buf (s : State) (v : Word) : (s.writeStatus v).buf = s.buf := rfl
@[simp] theorem writeStatus_secrets (s : State) (v : Word) : (s.writeStatus v).secrets = s.secrets := rfl
@[simp] theorem writeStatus_agenda (s : State) (v : Word) : (s.writeStatus v).agenda = s.agenda := rfl
@[simp] theorem writeStatus_reply (s : State) (v : Word) : (s.writeStatus v).reply = s.reply := rfl
@[simp] theorem writeStatus_entropy (s : State) (v : Word) : (s.writeStatus v).entropy = s.entropy := rfl
@[simp] theorem writeStatus_draws (s : State) (v : Word) : (s.writeStatus v).draws = s.draws := rfl
@[simp] theorem writeStatus_busyReads (s : State) (v : Word) : (s.writeStatus v).busyReads = s.busyReads := rfl
@[simp] theorem writeStatus_resets (s : State) (v : Word) : (s.writeStatus v).resets = s.resets := rfl

/-! ### issue -/

@[simp] theorem issue_config (s : State) (w : Word) : (s.issue w).config = s.config := rfl
@[simp] theorem issue_cmd (s : State) (w : Word) : (s.issue w).cmd = w := rfl
@[simp] theorem issue_busy (s : State) (w : Word) : (s.issue w).busy = true := rfl
@[simp] theorem issue_hazard (s : State) (w : Word) : (s.issue w).hazard = s.hazard := rfl
@[simp] theorem issue_rngFail (s : State) (w : Word) : (s.issue w).rngFail = s.rngFail := rfl
@[simp] theorem issue_err (s : State) (w : Word) : (s.issue w).err = s.err := rfl
@[simp] theorem issue_result (s : State) (w : Word) : (s.issue w).result = s.result := rfl
@[simp] theorem issue_crcState (s : State) (w : Word) : (s.issue w).crcState = s.crcState := rfl
@[simp] theorem issue_srcAddr (s : State) (w : Word) : (s.issue w).srcAddr = s.srcAddr := rfl
@[simp] theorem issue_srcLen (s : State) (w : Word) : (s.issue w).srcLen = s.srcLen := rfl
@[simp] theorem issue_keyAddr (s : State) (w : Word) : (s.issue w).keyAddr = s.keyAddr := rfl
@[simp] theorem issue_keyLen (s : State) (w : Word) : (s.issue w).keyLen = s.keyLen := rfl
@[simp] theorem issue_dstAddr (s : State) (w : Word) : (s.issue w).dstAddr = s.dstAddr := rfl
@[simp] theorem issue_dstCap (s : State) (w : Word) : (s.issue w).dstCap = s.dstCap := rfl
@[simp] theorem issue_buf (s : State) (w : Word) : (s.issue w).buf = s.buf := rfl
@[simp] theorem issue_secrets (s : State) (w : Word) : (s.issue w).secrets = s.secrets := rfl
@[simp] theorem issue_agenda (s : State) (w : Word) : (s.issue w).agenda = s.agenda := rfl
@[simp] theorem issue_reply (s : State) (w : Word) : (s.issue w).reply = s.reply := rfl
@[simp] theorem issue_entropy (s : State) (w : Word) : (s.issue w).entropy = s.entropy := rfl
@[simp] theorem issue_draws (s : State) (w : Word) : (s.issue w).draws = s.draws := rfl
@[simp] theorem issue_busyReads (s : State) (w : Word) : (s.issue w).busyReads = s.busyReads := rfl
@[simp] theorem issue_resets (s : State) (w : Word) : (s.issue w).resets = s.resets := rfl

/-! ### memWrite -/

@[simp] theorem memWrite_config (s : State) (a : Nat) (v : Bytes) : (s.memWrite a v).config = s.config := rfl
@[simp] theorem memWrite_cmd (s : State) (a : Nat) (v : Bytes) : (s.memWrite a v).cmd = s.cmd := rfl
@[simp] theorem memWrite_busy (s : State) (a : Nat) (v : Bytes) : (s.memWrite a v).busy = s.busy := rfl
@[simp] theorem memWrite_hazard (s : State) (a : Nat) (v : Bytes) : (s.memWrite a v).hazard = s.hazard := rfl
@[simp] theorem memWrite_rngFail (s : State) (a : Nat) (v : Bytes) : (s.memWrite a v).rngFail = s.rngFail := rfl
@[simp] theorem memWrite_err (s : State) (a : Nat) (v : Bytes) : (s.memWrite a v).err = s.err := rfl
@[simp] theorem memWrite_result (s : State) (a : Nat) (v : Bytes) : (s.memWrite a v).result = s.result := rfl
@[simp] theorem memWrite_crcState (s : State) (a : Nat) (v : Bytes) : (s.memWrite a v).crcState = s.crcState := rfl
@[simp] theorem memWrite_srcAddr (s : State) (a : Nat) (v : Bytes) : (s.memWrite a v).srcAddr = s.srcAddr := rfl
@[simp] theorem memWrite_srcLen (s : State) (a : Nat) (v : Bytes) : (s.memWrite a v).srcLen = s.srcLen := rfl
@[simp] theorem memWrite_keyAddr (s : State) (a : Nat) (v : Bytes) : (s.memWrite a v).keyAddr = s.keyAddr := rfl
@[simp] theorem memWrite_keyLen (s : State) (a : Nat) (v : Bytes) : (s.memWrite a v).keyLen = s.keyLen := rfl
@[simp] theorem memWrite_dstAddr (s : State) (a : Nat) (v : Bytes) : (s.memWrite a v).dstAddr = s.dstAddr := rfl
@[simp] theorem memWrite_dstCap (s : State) (a : Nat) (v : Bytes) : (s.memWrite a v).dstCap = s.dstCap := rfl
@[simp] theorem memWrite_buf (s : State) (a : Nat) (v : Bytes) : (s.memWrite a v).buf = s.buf.setBytes a v := rfl
@[simp] theorem memWrite_secrets (s : State) (a : Nat) (v : Bytes) : (s.memWrite a v).secrets = s.secrets := rfl
@[simp] theorem memWrite_agenda (s : State) (a : Nat) (v : Bytes) : (s.memWrite a v).agenda = s.agenda := rfl
@[simp] theorem memWrite_reply (s : State) (a : Nat) (v : Bytes) : (s.memWrite a v).reply = s.reply := rfl
@[simp] theorem memWrite_entropy (s : State) (a : Nat) (v : Bytes) : (s.memWrite a v).entropy = s.entropy := rfl
@[simp] theorem memWrite_draws (s : State) (a : Nat) (v : Bytes) : (s.memWrite a v).draws = s.draws := rfl
@[simp] theorem memWrite_busyReads (s : State) (a : Nat) (v : Bytes) : (s.memWrite a v).busyReads = s.busyReads := rfl
@[simp] theorem memWrite_resets (s : State) (a : Nat) (v : Bytes) : (s.memWrite a v).resets = s.resets := rfl

/-! ### complete -/

/-- The completion step after a success (R131, Ok branch). -/
theorem complete_success (s : State) (ws : List (Nat × Bytes)) (res : Word) (crc : Option Word) (w : Work) :
    s.complete (.success ws res crc w) =
      { s with
        buf := ws.foldl (fun m x => m.setBytes x.1 x.2) s.buf
        crcState := crc.getD s.crcState
        result := res
        err := 0x00
        rngFail := s.rngFail || w.rngFailed
        secrets := Secrets.zero
        busy := false
        entropy := w.entropy
        draws := w.draws } := rfl

/-- The completion step after an error (R131, Err branch; R312). -/
theorem complete_raise (s : State) (e : ErrorCode) (w : Work) :
    s.complete (.raise e w) =
      { s with
        result := 0x00000000
        err := e.code
        rngFail := s.rngFail || w.rngFailed
        secrets := Secrets.zero
        busy := false
        entropy := w.entropy
        draws := w.draws } := rfl

/-- The completion of an illegal word, field by field (R106, R312). -/
theorem completeIllegal_eq (s : State) :
    s.completeIllegal =
      { s with result := 0x00000000, err := 0x10, busy := false, secrets := Secrets.zero } := by
  rw [State.completeIllegal, complete_raise]
  simp [State.work, ErrorCode.code]

end Sys2Proof.Machine
end

