-- ==== Sys2Proof/Laws/Memory.lean ====
section
/-! SUPPORT. What BUF's operations do: reads after writes, the canonical form, and the offsets a memory lists. -/

namespace Sys2Proof.Machine

/-! ### One byte -/

theorem Memory.get?_set (m : Memory) (a : Nat) (v : Byte) (b : Nat) :
    (m.set a v).get? b = if b = a then some v else m.get? b := by
  induction m with
  | nil => simp [Memory.set, Memory.get?]
  | cons c m ih =>
    obtain ⟨x, w⟩ := c
    simp only [Memory.set]
    split_ifs <;> simp_all [Memory.get?]

theorem Memory.mem_set {m : Memory} {a : Nat} {v : Byte} {c : Host.Cell} (h : c ∈ m.set a v) :
    c = (a, v) ∨ c ∈ m := by
  induction m with
  | nil => simpa [Memory.set] using h
  | cons d m ih =>
    obtain ⟨x, w⟩ := d
    simp only [Memory.set] at h
    split_ifs at h with h1 h2
    · simpa using h
    · rcases List.mem_cons.1 h with h | h
      · exact .inl h
      · exact .inr (List.mem_cons_of_mem _ h)
    · rcases List.mem_cons.1 h with h | h
      · exact .inr (h ▸ List.mem_cons_self)
      · exact (ih h).imp id (List.mem_cons_of_mem _)

theorem Memory.set_wf {m : Memory} (h : m.wf) (a : Nat) (v : Byte) : (m.set a v).wf := by
  induction m with
  | nil => simp [Memory.set, Memory.wf]
  | cons c m ih =>
    obtain ⟨x, w⟩ := c
    have hx : ∀ y ∈ m.map Prod.fst, x < y := (List.pairwise_cons.1 h).1
    have hm : Memory.wf m := (List.pairwise_cons.1 h).2
    simp only [Memory.set]
    split_ifs with h1 h2
    · refine List.pairwise_cons.2 ⟨?_, h⟩
      intro y hy
      rcases List.mem_cons.1 hy with rfl | hy
      · exact h1
      · exact h1.trans (hx y hy)
    · exact List.pairwise_cons.2 ⟨h2 ▸ hx, hm⟩
    · refine List.pairwise_cons.2 ⟨?_, ih hm⟩
      intro y hy
      obtain ⟨c, hc, rfl⟩ := List.mem_map.1 hy
      rcases Memory.mem_set hc with rfl | hc
      · show x < a; omega
      · exact hx _ (List.mem_map_of_mem hc)

/-! ### Byte strings -/

theorem Memory.get?_setBytes (m : Memory) (a : Nat) (vs : Bytes) (b : Nat) :
    (m.setBytes a vs).get? b = if a ≤ b ∧ b < a + vs.length then vs[b - a]? else m.get? b := by
  induction vs generalizing m a with
  | nil =>
    rw [if_neg (by simp)]
    rfl
  | cons v vs ih =>
    simp only [Memory.setBytes, ih, Memory.get?_set, List.length_cons]
    by_cases hb : b = a
    · subst hb; simp
    · by_cases hin : a + 1 ≤ b ∧ b < a + 1 + vs.length
      · have h2 : a ≤ b ∧ b < a + (vs.length + 1) := by omega
        have h3 : b - a = (b - (a + 1)) + 1 := by omega
        simp [hin, h2, h3]
      · have h2 : ¬(a ≤ b ∧ b < a + (vs.length + 1)) := by omega
        rw [if_neg hin, if_neg h2, if_neg hb]

theorem Memory.mem_setBytes {m : Memory} {a : Nat} {vs : Bytes} {c : Host.Cell} (h : c ∈ m.setBytes a vs) :
    (a ≤ c.1 ∧ c.1 < a + vs.length) ∨ c ∈ m := by
  induction vs generalizing m a with
  | nil => exact .inr h
  | cons v vs ih =>
    simp only [List.length_cons]
    rcases ih h with h | h
    · left; omega
    · rcases Memory.mem_set h with rfl | h
      · left; simp
      · exact .inr h

theorem Memory.setBytes_wf {m : Memory} (h : m.wf) (a : Nat) (vs : Bytes) : (m.setBytes a vs).wf := by
  induction vs generalizing m a with
  | nil => exact h
  | cons v vs ih => exact ih (Memory.set_wf h a v) (a + 1)

theorem State.reset_buf_wf : State.reset.buf.wf := List.Pairwise.nil

/-! ### Reads through the state -/

@[simp] theorem State.memRead_length (s : State) (a n : Nat) : (s.memRead a n).length = n := by
  induction n generalizing a with
  | zero => rfl
  | succ n ih => simp [State.memRead, ih]

theorem State.memRead_getElem? (s : State) (a n i : Nat) (h : i < n) : (s.memRead a n)[i]? = some (s.bufByte (a + i)) := by
  induction n generalizing a i with
  | zero => omega
  | succ n ih =>
    cases i with
    | zero => simp [State.memRead]
    | succ i =>
      have := ih (a + 1) i (by omega)
      simp only [State.memRead, List.getElem?_cons_succ, this]
      congr 2; omega

/-- A read depends only on the bytes it reads. -/
theorem State.memRead_congr {s t : State} {a n : Nat} (h : ∀ b, a ≤ b → b < a + n → s.bufByte b = t.bufByte b) :
    s.memRead a n = t.memRead a n := by
  induction n generalizing a with
  | zero => rfl
  | succ n ih =>
    simp only [State.memRead]
    rw [h a (by omega) (by omega), ih fun b hb hb' => h b (by omega) (by omega)]

theorem State.bufByte_memWrite (s : State) (a : Nat) (v : Bytes) (b : Nat) :
    (s.memWrite a v).bufByte b = if a ≤ b ∧ b < a + v.length then v.getD (b - a) 0 else s.bufByte b := by
  simp only [State.bufByte, memWrite_buf, memWrite_resets, Memory.get?_setBytes]
  split_ifs with h
  · have : b - a < v.length := by omega
    simp [List.getD_eq_getElem?_getD, this]
  · rfl

end Sys2Proof.Machine
end

