-- ==== Sys2Proof/Laws/Ops.lean ====
section
/-! SUPPORT. What each shared operation can do, said once: the draw, the prologue, key generation, `seal`, `open`, the
body of each command, and the completion step. -/

namespace Sys2Proof.Machine

/-! ### The draw (R137) -/

theorem fitBytes_length (n : Nat) (bs : Bytes) : (fitBytes n bs).length = n := by
  simp [fitBytes]

/-- An answer has as many bytes as were asked for. -/
theorem nextAnswer_length {w : Work} {n : Nat} {bs : Bytes} (h : w.nextAnswer n = some bs) : bs.length = n := by
  unfold Work.nextAnswer at h
  split at h
  · cases h
  · cases h; exact fitBytes_length _ _
  · obtain ⟨f, _, rfl⟩ := Option.map_eq_some_iff.1 h
    simp

/-- The three things a draw can do. -/
theorem draw_cases (w : Work) (rngFail : Bool) (n : Nat) :
    (rngFail = true ∧ w.draw rngFail n = (none, w)) ∨
    (rngFail = false ∧ w.nextAnswer n = none ∧ w.draw rngFail n = (none, { w.advance with rngFailed := true })) ∨
    (rngFail = false ∧ ∃ bs, w.nextAnswer n = some bs ∧ bs.length = n ∧ w.draw rngFail n = (some bs, w.advance)) := by
  cases rngFail with
  | true => exact .inl ⟨rfl, rfl⟩
  | false =>
    cases h : w.nextAnswer n with
    | none => exact .inr (.inl ⟨rfl, rfl, by simp [Work.draw, h]⟩)
    | some bs => exact .inr (.inr ⟨rfl, bs, rfl, nextAnswer_length h, by simp [Work.draw, h]⟩)

/-- The next answer depends on the oracle's side only. -/
theorem nextAnswer_congr {w w' : Work} (he : w.entropy = w'.entropy) (hd : w.draws = w'.draws) (n : Nat) :
    w.nextAnswer n = w'.nextAnswer n := by
  simp only [Work.nextAnswer, he, hd]

/-! ### Key generation (R193) -/

/-- The SECRETS register EPH_SK set. -/
def Work.withEphSk (w : Work) (sk : Bytes) : Work := { w with secrets := { w.secrets with ephSk := sk } }

/-- The SECRETS register SS set. -/
def Work.withSs (w : Work) (ss : Bytes) : Work := { w with secrets := { w.secrets with ss := ss } }

/-- The three things key generation can do. -/
theorem generateKeyPair_cases (rngFail : Bool) (w : Work) :
    (rngFail = true ∧ generateKeyPair rngFail w = (none, w)) ∨
    (rngFail = false ∧ w.nextAnswer 32 = none ∧
      generateKeyPair rngFail w = (none, { w.advance with rngFailed := true })) ∨
    (rngFail = false ∧ ∃ raw, w.nextAnswer 32 = some raw ∧ raw.length = 32 ∧
      generateKeyPair rngFail w =
        (some (clamp raw, x25519 (clamp raw) basePoint), w.advance.withEphSk (clamp raw))) := by
  rcases draw_cases w rngFail 32 with ⟨h1, h2⟩ | ⟨h1, h2, h3⟩ | ⟨h1, bs, h2, h3, h4⟩
  · exact .inl ⟨h1, by simp [generateKeyPair, h2]⟩
  · exact .inr (.inl ⟨h1, h2, by simp [generateKeyPair, h3]⟩)
  · exact .inr (.inr ⟨h1, bs, h2, h3, by simp [generateKeyPair, h4, Work.withEphSk]⟩)

/-! ### seal and open (R272, R273) -/

/-- What `seal` answers, and what it leaves on the oracle's side. The last case is the success: the envelope's parts
are named. -/
theorem sealEnvelope_cases (info : Bytes) (rngFail : Bool) (w : Work) (p pk : Bytes) :
    (rngFail = true ∧ sealEnvelope info rngFail w p pk = (.err .randomSourceFailure, w)) ∨
    (rngFail = false ∧ w.nextAnswer 32 = none ∧
      sealEnvelope info rngFail w p pk = (.err .randomSourceFailure, { w.advance with rngFailed := true })) ∨
    (rngFail = false ∧ ∃ raw, w.nextAnswer 32 = some raw ∧ raw.length = 32 ∧
      ((x25519 (clamp raw) pk = zeros 32 ∧ ∃ w', sealEnvelope info rngFail w p pk = (.err .invalidPeerPoint, w') ∧
          w'.entropy = w.entropy.tail ∧ w'.draws = w.draws + 1 ∧ w'.rngFailed = w.rngFailed) ∨
       (x25519 (clamp raw) pk ≠ zeros 32 ∧ w.advance.nextAnswer 12 = none ∧
          ∃ w', sealEnvelope info rngFail w p pk = (.err .randomSourceFailure, w') ∧
          w'.entropy = w.entropy.tail.tail ∧ w'.draws = w.draws + 2 ∧ w'.rngFailed = true) ∨
       (x25519 (clamp raw) pk ≠ zeros 32 ∧ ∃ nonce, w.advance.nextAnswer 12 = some nonce ∧ nonce.length = 12 ∧
          ∃ w', sealEnvelope info rngFail w p pk =
            (.ok (envelope (x25519 (clamp raw) basePoint) nonce
              (gcmAE (kdf info (x25519 (clamp raw) pk)) nonce p []).1
              (gcmAE (kdf info (x25519 (clamp raw) pk)) nonce p []).2), w') ∧
          w'.entropy = w.entropy.tail.tail ∧ w'.draws = w.draws + 2 ∧ w'.rngFailed = w.rngFailed))) := by
  rcases generateKeyPair_cases rngFail w with ⟨h1, h2⟩ | ⟨h1, h2, h3⟩ | ⟨h1, raw, h2, h3, h4⟩
  · exact .inl ⟨h1, by simp [sealEnvelope, h2]⟩
  · exact .inr (.inl ⟨h1, h2, by simp [sealEnvelope, h3]⟩)
  · refine .inr (.inr ⟨h1, raw, h2, h3, ?_⟩)
    by_cases hz : x25519 (clamp raw) pk = zeros 32
    · refine .inl ⟨hz, (w.advance.withEphSk (clamp raw)).withSs (zeros 32), ?_, rfl, rfl, rfl⟩
      simp only [sealEnvelope, h4, isLowOrder, hz, beq_self_eq_true, if_true]
      rfl
    · refine .inr ?_
      have hb : (x25519 (clamp raw) pk == zeros 32) = false := by simpa using hz
      have hn : ((w.advance.withEphSk (clamp raw)).withKey info (x25519 (clamp raw) pk)).nextAnswer 12 =
          w.advance.nextAnswer 12 := nextAnswer_congr rfl rfl 12
      rcases draw_cases ((w.advance.withEphSk (clamp raw)).withKey info (x25519 (clamp raw) pk)) rngFail 12 with
        ⟨h5, _⟩ | ⟨_, h6, h7⟩ | ⟨_, nonce, h6, h7, h8⟩
      · simp [h1] at h5
      · refine .inl ⟨hz, hn ▸ h6, { ((w.advance.withEphSk (clamp raw)).withKey info
          (x25519 (clamp raw) pk)).advance with rngFailed := true }, ?_, rfl, rfl, rfl⟩
        simp only [sealEnvelope, h4, isLowOrder, hb, h7]
        rfl
      · refine .inr ⟨hz, nonce, hn ▸ h6, h7, ((w.advance.withEphSk (clamp raw)).withKey info
          (x25519 (clamp raw) pk)).advance.withAead (gcmAE (kdf info (x25519 (clamp raw) pk)) nonce p []).1, ?_,
          rfl, rfl, rfl⟩
        simp only [sealEnvelope, h4, isLowOrder, hb, h8]
        rfl

/-- What `open` answers; it leaves the oracle's side alone. -/
theorem openEnvelope_cases (info : Bytes) (w : Work) (e sk : Bytes) :
    ∃ w', w'.entropy = w.entropy ∧ w'.draws = w.draws ∧ w'.rngFailed = w.rngFailed ∧
      ((e.length < 60 ∧ openEnvelope info w e sk = (.err .malformedEnvelope, w')) ∨
       (60 ≤ e.length ∧ x25519 (clamp sk) (envEpk e) = zeros 32 ∧
          openEnvelope info w e sk = (.err .invalidPeerPoint, w')) ∨
       (60 ≤ e.length ∧ x25519 (clamp sk) (envEpk e) ≠ zeros 32 ∧
          gcmTag (aes256 (kdf info (x25519 (clamp sk) (envEpk e)))) (envNonce e) (envCiphertext e) [] ≠ envTag e ∧
          openEnvelope info w e sk = (.err .authenticationFailed, w')) ∨
       (60 ≤ e.length ∧ x25519 (clamp sk) (envEpk e) ≠ zeros 32 ∧
          gcmTag (aes256 (kdf info (x25519 (clamp sk) (envEpk e)))) (envNonce e) (envCiphertext e) [] = envTag e ∧
          openEnvelope info w e sk =
            (.ok (gcmText (aes256 (kdf info (x25519 (clamp sk) (envEpk e)))) (envNonce e) (envCiphertext e)), w'))) := by
  by_cases hl : e.length < 60
  · exact ⟨w, rfl, rfl, rfl, .inl ⟨hl, by simp only [openEnvelope, hl, if_true]⟩⟩
  · have hl' : 60 ≤ e.length := by omega
    by_cases hz : x25519 (clamp sk) (envEpk e) = zeros 32
    · exact ⟨{ w with secrets := { w.secrets with ephSk := clamp sk, ss := x25519 (clamp sk) (envEpk e) } }, rfl, rfl, rfl,
        .inr (.inl ⟨hl', hz, by simp only [openEnvelope, hl, if_false, isLowOrder, hz, beq_self_eq_true, if_true]⟩)⟩
    · have hb : (x25519 (clamp sk) (envEpk e) == zeros 32) = false := by simpa using hz
      refine ⟨((w.withEphSk (clamp sk)).withKey info (x25519 (clamp sk) (envEpk e))).withAead
        (gcmText (aes256 (kdf info (x25519 (clamp sk) (envEpk e)))) (envNonce e) (envCiphertext e)), rfl, rfl, rfl, ?_⟩
      by_cases ht : gcmTag (aes256 (kdf info (x25519 (clamp sk) (envEpk e)))) (envNonce e) (envCiphertext e) [] = envTag e
      · refine .inr (.inr (.inr ⟨hl', hz, ht, ?_⟩))
        simp only [openEnvelope, hl, if_false, isLowOrder, hb, gcmAD, Work.withKey, Work.withAead, ht, if_true,
          Work.withEphSk]
        rfl
      · refine .inr (.inr (.inl ⟨hl', hz, ht, ?_⟩))
        simp only [openEnvelope, hl, if_false, isLowOrder, hb, gcmAD, Work.withKey, Work.withAead, ht,
          Work.withEphSk]
        rfl

theorem envelope_length (epk nonce c t : Bytes) (h1 : epk.length = 32) (h2 : nonce.length = 12) (h3 : t.length = 16) :
    (envelope epk nonce c t).length = c.length + 60 := by
  simp only [envelope, List.length_append]; omega

/-- An envelope sealed over p has `p.length + 60` bytes (R271). -/
theorem sealEnvelope_ok_length {info : Bytes} {rngFail : Bool} {w w' : Work} {p pk e : Bytes}
    (h : sealEnvelope info rngFail w p pk = (.ok e, w')) : e.length = p.length + 60 := by
  rcases sealEnvelope_cases info rngFail w p pk with ⟨_, h'⟩ | ⟨_, _, h'⟩ | ⟨_, raw, _, _, h'⟩
  · rw [h'] at h; cases h
  · rw [h'] at h; cases h
  · rcases h' with ⟨_, _, h', _⟩ | ⟨_, _, _, h', _⟩ | ⟨_, nonce, _, hn, _, h', _⟩
    · rw [h'] at h; cases h
    · rw [h'] at h; cases h
    · rw [h'] at h; cases h
      simp only [gcmAE]
      rw [envelope_length _ _ _ _ (x25519_length _ _) hn (gcmTag_length _ _ _ _ (kdf_length _ _)),
        gcmText_length _ _ _ (kdf_length _ _)]

/-- An opened envelope gives 60 bytes fewer (R271). -/
theorem openEnvelope_ok_length {info : Bytes} {w w' : Work} {e sk p : Bytes}
    (h : openEnvelope info w e sk = (.ok p, w')) : 60 ≤ e.length ∧ p.length = e.length - 60 := by
  obtain ⟨w'', _, _, _, h' | h' | h' | h'⟩ := openEnvelope_cases info w e sk
  · rw [h'.2] at h; cases h
  · rw [h'.2.2] at h; cases h
  · rw [h'.2.2.2] at h; cases h
  · obtain ⟨hl, _, _, h'⟩ := h'
    rw [h'] at h; cases h
    refine ⟨hl, ?_⟩
    rw [gcmText_length _ _ _ (kdf_length _ _), envCiphertext, slice_length _ _ _ (by omega)]
    omega

/-! ### The prologue (R135) -/

/-- The prologue of a command passes iff every check that names the command holds. -/
theorem prologue_eq_none_iff (i : Instr) (s : State) :
    prologue i s = none ↔
      (i = .decrypt → 60 ≤ s.srcN) ∧ (readsKey i = true → s.keyLen.toNat = 32) ∧
      (writesDst i = true → outlen i s ≤ s.dstCap.toNat) ∧
      (readsSrc i = true → s.srcAt + s.srcN ≤ s.config.bufSize) ∧
      (readsKey i = true → s.keyAt + 32 ≤ s.config.bufSize) ∧
      (writesDst i = true → s.dstAt + outlen i s ≤ s.config.bufSize) := by
  unfold prologue State.valid
  split_ifs <;> simp_all

/-- The errors a prologue can raise, and for which commands. -/
theorem prologue_eq_some {i : Instr} {s : State} {e : ErrorCode} (h : prologue i s = some e) :
    (e = .malformedEnvelope ∧ i = .decrypt ∧ s.srcN < 60) ∨ (e = .invalidKeyLength ∧ readsKey i = true) ∨
    (e = .bufferTooSmall ∧ writesDst i = true) ∨
    (e = .addressRange ∧ (readsSrc i = true ∨ readsKey i = true ∨ writesDst i = true)) := by
  unfold prologue at h
  split_ifs at h <;> simp_all

/-- The prologue with its tests as propositions over the registers. -/
theorem prologue_eq (i : Instr) (s : State) : prologue i s =
    if i = .decrypt ∧ s.srcLen.toNat < 60 then some .malformedEnvelope
    else if readsKey i = true ∧ s.keyLen.toNat ≠ 32 then some .invalidKeyLength
    else if writesDst i = true ∧ s.dstCap.toNat < outlen i s then some .bufferTooSmall
    else if readsSrc i = true ∧ s.config.bufSize < s.srcAddr.toNat + s.srcLen.toNat then some .addressRange
    else if readsKey i = true ∧ s.config.bufSize < s.keyAddr.toNat + 32 then some .addressRange
    else if writesDst i = true ∧ s.config.bufSize < s.dstAddr.toNat + outlen i s then some .addressRange
    else none := by
  unfold prologue State.valid State.srcN State.srcAt State.keyAt State.dstAt
  simp

theorem prologue_crcUpdate (s : State) : prologue .crcUpdate s =
    if s.config.bufSize < s.srcAddr.toNat + s.srcLen.toNat then some .addressRange else none := by
  rw [prologue_eq]; simp [readsKey, readsSrc, writesDst]

theorem prologue_crcCompute (s : State) : prologue .crcCompute s =
    if s.config.bufSize < s.srcAddr.toNat + s.srcLen.toNat then some .addressRange else none := by
  rw [prologue_eq]; simp [readsKey, readsSrc, writesDst]

theorem prologue_keygen (s : State) : prologue .keygen s =
    if s.dstCap.toNat < 64 then some .bufferTooSmall
    else if s.config.bufSize < s.dstAddr.toNat + 64 then some .addressRange else none := by
  rw [prologue_eq]; simp [readsKey, readsSrc, writesDst, outlen]

theorem prologue_derivePublic (s : State) : prologue .derivePublic s =
    if s.keyLen.toNat ≠ 32 then some .invalidKeyLength
    else if s.dstCap.toNat < 32 then some .bufferTooSmall
    else if s.config.bufSize < s.keyAddr.toNat + 32 then some .addressRange
    else if s.config.bufSize < s.dstAddr.toNat + 32 then some .addressRange else none := by
  rw [prologue_eq]; simp [readsKey, readsSrc, writesDst, outlen]

theorem prologue_encrypt (s : State) : prologue .encrypt s =
    if s.keyLen.toNat ≠ 32 then some .invalidKeyLength
    else if s.dstCap.toNat < s.srcLen.toNat + 60 then some .bufferTooSmall
    else if s.config.bufSize < s.srcAddr.toNat + s.srcLen.toNat then some .addressRange
    else if s.config.bufSize < s.keyAddr.toNat + 32 then some .addressRange
    else if s.config.bufSize < s.dstAddr.toNat + (s.srcLen.toNat + 60) then some .addressRange else none := by
  rw [prologue_eq]; simp [readsKey, readsSrc, writesDst, outlen, State.srcN]

theorem prologue_decrypt (s : State) : prologue .decrypt s =
    if s.srcLen.toNat < 60 then some .malformedEnvelope
    else if s.keyLen.toNat ≠ 32 then some .invalidKeyLength
    else if s.dstCap.toNat < s.srcLen.toNat - 60 then some .bufferTooSmall
    else if s.config.bufSize < s.srcAddr.toNat + s.srcLen.toNat then some .addressRange
    else if s.config.bufSize < s.keyAddr.toNat + 32 then some .addressRange
    else if s.config.bufSize < s.dstAddr.toNat + (s.srcLen.toNat - 60) then some .addressRange else none := by
  rw [prologue_eq]; simp [readsKey, readsSrc, writesDst, outlen, State.srcN]

theorem afterPrologue_none {i : Instr} {s : State} (h : prologue i s = none) (r : ExecResult) :
    afterPrologue i s r = r := by simp [afterPrologue, h]

theorem afterPrologue_some {i : Instr} {s : State} {e : ErrorCode} (h : prologue i s = some e) (r : ExecResult) :
    afterPrologue i s r = .raise e s.work := by simp [afterPrologue, h]

/-! ### Every command -/

/-- What `Exec` returns for a command (R132). -/
def execBody (i : Instr) (s : State) : ExecResult :=
  match i with
  | .crcInit => crcInitBody s
  | .crcUpdate => crcUpdateBody s
  | .crcFinalize => crcFinalizeBody s
  | .crcCompute => crcComputeBody s
  | .keygen => keygenBody s
  | .derivePublic => derivePublicBody s
  | .encrypt => encryptBody s
  | .decrypt => decryptBody s

/-- Every command is its body and the completion step (R131); none stops. -/
theorem exec_eq (i : Instr) (s : State) : exec i s = .next (s.complete (execBody i s)) := by cases i <;> rfl

/-- A store of a command: nothing, or one byte string of `outlen` bytes at dstR. -/
def StoresOnlyDst (i : Instr) (s : State) (ws : List (Nat × Bytes)) : Prop :=
  ws = [] ∨ (writesDst i = true ∧ ∃ v, ws = [(s.dstAt, v)] ∧ v.length = outlen i s ∧
    s.dstAt + v.length ≤ s.config.bufSize)

/-- The shape of what a command's body returns: an error with its side of the oracle, or a success that stores only its
dstR. -/
theorem execBody_cases (i : Instr) (s : State) :
    (∃ e w, execBody i s = .raise e w ∧ (w.rngFailed = true → e = .randomSourceFailure) ∧
      (e = .randomSourceFailure → s.rngFail = true ∨ w.rngFailed = true)) ∨
    (∃ ws res crc w, execBody i s = .success ws res crc w ∧ w.rngFailed = false ∧ StoresOnlyDst i s ws ∧
      prologue i s = none) := by
  cases hp : prologue i s with
  | some e =>
    refine .inl ⟨e, s.work, ?_, by simp [State.work], ?_⟩
    · cases i <;> exact afterPrologue_some hp _
    · rintro rfl
      rcases prologue_eq_some hp with ⟨h, _⟩ | ⟨h, _⟩ | ⟨h, _⟩ | ⟨h, _⟩ <;> cases h
  | none =>
    have hd := (prologue_eq_none_iff i s).1 hp
    cases i with
    | crcInit => exact .inr ⟨_, _, _, _, afterPrologue_none hp _, rfl, .inl rfl, rfl⟩
    | crcUpdate => exact .inr ⟨_, _, _, _, afterPrologue_none hp _, rfl, .inl rfl, rfl⟩
    | crcFinalize => exact .inr ⟨_, _, _, _, afterPrologue_none hp _, rfl, .inl rfl, rfl⟩
    | crcCompute => exact .inr ⟨_, _, _, _, afterPrologue_none hp _, rfl, .inl rfl, rfl⟩
    | derivePublic =>
      refine .inr ⟨_, _, _, _, afterPrologue_none hp _, rfl, .inr ⟨rfl, _, rfl, x25519_length _ _, ?_⟩, rfl⟩
      rw [x25519_length]
      exact hd.2.2.2.2.2 rfl
    | keygen =>
      have hb : execBody .keygen s = _ := afterPrologue_none hp _
      rcases generateKeyPair_cases s.rngFail s.work with ⟨h1, h2⟩ | ⟨_, _, h3⟩ | ⟨_, raw, _, hl, h4⟩
      · exact .inl ⟨_, _, by rw [hb, h2], by simp, fun _ => .inl h1⟩
      · exact .inl ⟨_, _, by rw [hb, h3], by simp, fun _ => .inr rfl⟩
      · refine .inr ⟨_, _, _, _, by rw [hb, h4], rfl, .inr ⟨rfl, _, rfl, by simp [outlen, hl], ?_⟩, rfl⟩
        have := hd.2.2.2.2.2 rfl
        simp only [List.length_append, clamp_length, hl, x25519_length]
        exact this
    | encrypt =>
      have hb : execBody .encrypt s = _ := afterPrologue_none hp _
      rcases hs : sealEnvelope s.config.hkdfInfo s.rngFail s.work s.srcBytes s.keyBytes with ⟨r, w'⟩
      rw [hs] at hb
      cases r with
      | err e =>
        refine .inl ⟨e, w', hb, ?_⟩
        rcases sealEnvelope_cases s.config.hkdfInfo s.rngFail s.work s.srcBytes s.keyBytes with
          ⟨h1, h'⟩ | ⟨_, _, h'⟩ | ⟨_, raw, _, _, h'⟩
        · rw [h'] at hs; cases hs; exact ⟨by simp, fun _ => .inl h1⟩
        · rw [h'] at hs; cases hs; exact ⟨by simp, fun _ => .inr rfl⟩
        · rcases h' with ⟨_, _, h', _, _, hf⟩ | ⟨_, _, _, h', _, _, hf⟩ | ⟨_, _, _, _, _, h', _⟩
          · rw [h'] at hs; cases hs; exact ⟨by rw [hf]; simp [State.work], by simp⟩
          · rw [h'] at hs; cases hs; exact ⟨by simp, fun _ => .inr hf⟩
          · rw [h'] at hs; cases hs
      | ok e =>
        have hl : e.length = outlen .encrypt s := by simpa [outlen, State.srcBytes] using sealEnvelope_ok_length hs
        refine .inr ⟨_, _, _, _, hb, ?_, .inr ⟨rfl, e, rfl, hl, ?_⟩, rfl⟩
        · rcases sealEnvelope_cases s.config.hkdfInfo s.rngFail s.work s.srcBytes s.keyBytes with
            ⟨h1, h'⟩ | ⟨_, _, h'⟩ | ⟨_, raw, _, _, h'⟩
          · rw [h'] at hs; cases hs
          · rw [h'] at hs; cases hs
          · rcases h' with ⟨_, _, h', _⟩ | ⟨_, _, _, h', _⟩ | ⟨_, _, _, _, _, h', _, _, hf⟩
            · rw [h'] at hs; cases hs
            · rw [h'] at hs; cases hs
            · rw [h'] at hs; cases hs; exact hf
        · rw [hl]; exact hd.2.2.2.2.2 rfl
    | decrypt =>
      have hb : execBody .decrypt s = _ := afterPrologue_none hp _
      rcases hs : openEnvelope s.config.hkdfInfo s.work s.srcBytes s.keyBytes with ⟨r, w'⟩
      rw [hs] at hb
      obtain ⟨w'', _, _, hf, h'⟩ := openEnvelope_cases s.config.hkdfInfo s.work s.srcBytes s.keyBytes
      have hw : w'.rngFailed = false ∧ (∀ e, r = .err e → e ≠ .randomSourceFailure) := by
        rcases h' with ⟨_, h'⟩ | ⟨_, _, h'⟩ | ⟨_, _, _, h'⟩ | ⟨_, _, _, h'⟩ <;>
          (rw [h'] at hs; cases hs; exact ⟨hf, by simp⟩)
      cases r with
      | err e => exact .inl ⟨e, w', hb, by simp [hw.1], fun h => absurd h (hw.2 e rfl)⟩
      | ok p =>
        have hl : p.length = outlen .decrypt s := by simpa [outlen, State.srcBytes] using (openEnvelope_ok_length hs).2
        exact .inr ⟨_, _, _, _, hb, hw.1, .inr ⟨rfl, p, rfl, hl, by rw [hl]; exact hd.2.2.2.2.2 rfl⟩, rfl⟩

end Sys2Proof.Machine
end

