-- ==== Sys2Proof/Laws/PerInstr.lean ====
section
/-! SUPPORT. Statements for all commands, one lemma per command. -/

namespace Sys2Proof.Laws

/-- The command's word, read as the opcode table numbers its bits, decodes to the command (R100, R104). -/
def RoundTrip.Statement (i : Instr) : Prop :=
  decode (encode i) = .command i ∧ decodeTableWord 32 (encode i).toNat = some i ∧ (fieldsOf (encode i)).rsv = 0

theorem RoundTrip.crcInit : RoundTrip.Statement .crcInit := by unfold RoundTrip.Statement; decide
theorem RoundTrip.crcUpdate : RoundTrip.Statement .crcUpdate := by unfold RoundTrip.Statement; decide
theorem RoundTrip.crcFinalize : RoundTrip.Statement .crcFinalize := by unfold RoundTrip.Statement; decide
theorem RoundTrip.crcCompute : RoundTrip.Statement .crcCompute := by unfold RoundTrip.Statement; decide
theorem RoundTrip.keygen : RoundTrip.Statement .keygen := by unfold RoundTrip.Statement; decide
theorem RoundTrip.derivePublic : RoundTrip.Statement .derivePublic := by unfold RoundTrip.Statement; decide
theorem RoundTrip.encrypt : RoundTrip.Statement .encrypt := by unfold RoundTrip.Statement; decide
theorem RoundTrip.decrypt : RoundTrip.Statement .decrypt := by unfold RoundTrip.Statement; decide

end Sys2Proof.Laws
end

