-- ==== Sys2Proof/Laws/Step.lean ====
section
/-! SUPPORT. What one host access and one step can do, said once. -/

namespace Sys2Proof.Machine

/-- The state a step starts its turn from: the agenda's first turn is taken off. -/
def State.turnState (s : State) : State := { s with agenda := s.agenda.tail }

/-- A host access that answers is a register read or write, or a buffer read or write (R76). -/
theorem hostAccess_next {a : BusAccess} {s t : State} (h : hostAccess a s = .next t) :
    (∃ off, busTarget s.config a = .register off ∧ a.op = .read ∧ t = s.busReadReg off) ∨
    (∃ off v, busTarget s.config a = .register off ∧ a.op = .write v ∧ t = s.busWriteReg off v) ∨
    (∃ off, busTarget s.config a = .buffer off ∧ a.op = .read ∧ t = s.busReadBuf off a.width) ∨
    (∃ off v, busTarget s.config a = .buffer off ∧ a.op = .write v ∧ t = s.busWriteBuf off a.width v) := by
  unfold hostAccess at h
  split at h
  · next off h1 h2 => exact .inl ⟨off, h1, h2, by injection h with h; exact h.symm⟩
  · next off v h1 h2 => exact .inr (.inl ⟨off, v, h1, h2, by injection h with h; exact h.symm⟩)
  · next off h1 h2 => exact .inr (.inr (.inl ⟨off, h1, h2, by injection h with h; exact h.symm⟩))
  · next off v h1 h2 => exact .inr (.inr (.inr ⟨off, v, h1, h2, by injection h with h; exact h.symm⟩))
  · cases h
  · cases h

/-- Everything a step that answers a next state can do: the engine completes the pending command, the engine's turn
passes, a host access, or a reset. -/
theorem step_cases {s t : State} (h : step s = .next t) :
    ((s.agenda = [] ∨ s.agenda.head? = some .engine) ∧ s.busy = true ∧
      ((∃ i, decode s.cmd = .command i ∧ t = s.turnState.complete (execBody i s.turnState)) ∨
       (∃ why, decode s.cmd = .illegal why ∧ t = s.turnState.completeIllegal))) ∨
    ((s.agenda = [] ∨ s.agenda.head? = some .engine) ∧ s.busy = false ∧ t = s.turnState) ∨
    (∃ a, s.agenda.head? = some (.host a) ∧ hostAccess a s.turnState = .next t) ∨
    (s.agenda.head? = some .reset ∧ t = s.turnState.resetStep) := by
  have eng : ∀ u : State, u = s.turnState → engineTurn u = .next t →
      (s.busy = true ∧
        ((∃ i, decode s.cmd = .command i ∧ t = s.turnState.complete (execBody i s.turnState)) ∨
         (∃ why, decode s.cmd = .illegal why ∧ t = s.turnState.completeIllegal))) ∨
      (s.busy = false ∧ t = s.turnState) := by
    rintro u rfl hu
    unfold engineTurn at hu
    split at hu
    · next hb =>
      refine .inl ⟨hb, ?_⟩
      split at hu
      · next i hd => exact .inl ⟨i, hd, by rw [exec_eq] at hu; injection hu with hu; exact hu.symm⟩
      · next why hd => exact .inr ⟨why, hd, by injection hu with hu; exact hu.symm⟩
    · next hb => exact .inr ⟨by simpa [State.turnState] using hb, by injection hu with hu; exact hu.symm⟩
  unfold step nextTurn at h
  split at h
  · next ha =>
    have hs : s = s.turnState := by simp [State.turnState, ha]; rw [← ha]
    rcases eng s hs h with h | h
    · exact .inl ⟨.inl ha, h⟩
    · exact .inr (.inl ⟨.inl ha, h⟩)
  · next tn rest ha =>
    have hs : { s with agenda := rest } = s.turnState := by simp [State.turnState, ha]
    rw [hs] at h
    cases tn with
    | engine =>
      rcases eng _ rfl h with h | h
      · exact .inl ⟨.inr (by simp [ha]), h⟩
      · exact .inr (.inl ⟨.inr (by simp [ha]), h⟩)
    | host a => exact .inr (.inr (.inl ⟨a, by simp [ha], h⟩))
    | reset => exact .inr (.inr (.inr ⟨by simp [ha], by injection h with h; exact h.symm⟩))

/-- What a register write does to the fields no rule names for it: nothing (R346, R356). -/
theorem writeReg_frame (s : State) (r : Reg) (v : Word) :
    (s.writeReg r v).config = s.config ∧ (s.writeReg r v).rngFail = s.rngFail ∧ (s.writeReg r v).err = s.err ∧
    (s.writeReg r v).result = s.result ∧ (s.writeReg r v).buf = s.buf ∧ (s.writeReg r v).secrets = s.secrets ∧
    (s.writeReg r v).agenda = s.agenda ∧ (s.writeReg r v).reply = s.reply ∧ (s.writeReg r v).entropy = s.entropy ∧
    (s.writeReg r v).draws = s.draws ∧ (s.writeReg r v).busyReads = s.busyReads ∧
    (s.writeReg r v).resets = s.resets := by
  unfold State.writeReg
  split_ifs <;> cases r <;> exact ⟨rfl, rfl, rfl, rfl, rfl, rfl, rfl, rfl, rfl, rfl, rfl, rfl⟩

/-- What a host access that answers leaves alone in every case. -/
theorem hostAccess_frame {a : BusAccess} {s t : State} (h : hostAccess a s = .next t) :
    t.config = s.config ∧ t.rngFail = s.rngFail ∧ t.err = s.err ∧ t.result = s.result ∧ t.secrets = s.secrets ∧
    t.agenda = s.agenda ∧ t.entropy = s.entropy ∧ t.draws = s.draws ∧ t.resets = s.resets := by
  rcases hostAccess_next h with ⟨off, -, -, rfl⟩ | ⟨off, v, -, -, rfl⟩ | ⟨off, -, -, rfl⟩ | ⟨off, v, -, -, rfl⟩
  · exact ⟨rfl, rfl, rfl, rfl, rfl, rfl, rfl, rfl, rfl⟩
  · unfold State.busWriteReg
    split
    · next r _ =>
      obtain ⟨h1, h2, h3, h4, -, h6, h7, -, h9, h10, -, h12⟩ := writeReg_frame s r v
      exact ⟨h1, h2, h3, h4, h6, h7, h9, h10, h12⟩
    · exact ⟨rfl, rfl, rfl, rfl, rfl, rfl, rfl, rfl, rfl⟩
  · unfold State.busReadBuf
    split_ifs <;> exact ⟨rfl, rfl, rfl, rfl, rfl, rfl, rfl, rfl, rfl⟩
  · unfold State.busWriteBuf
    split_ifs <;> exact ⟨rfl, rfl, rfl, rfl, rfl, rfl, rfl, rfl, rfl⟩

/-- What a host access that answers while BUSY = 1 can change: HAZARD, and the model's own fields `reply` and
`busyReads` (R346 to R348). -/
theorem hostAccess_busy {a : BusAccess} {s t : State} (hb : s.busy = true) (h : hostAccess a s = .next t) :
    t = { s with hazard := t.hazard, reply := t.reply, busyReads := t.busyReads } := by
  rcases hostAccess_next h with ⟨off, -, -, rfl⟩ | ⟨off, v, -, -, rfl⟩ | ⟨off, -, -, rfl⟩ | ⟨off, v, -, -, rfl⟩
  · rfl
  · unfold State.busWriteReg
    split
    · next r _ =>
      rw [State.writeReg, if_pos hb]
      cases r <;> rfl
    · rfl
  · simp [State.busReadBuf, hb]
  · simp [State.busWriteBuf, State.setHazard, hb]

/-- A safe host turn is answered (R76). -/
theorem hostAccess_answers {a : BusAccess} {s : State} (h : Turn.safe s.config (.host a) = true) :
    ∃ t, hostAccess a s = .next t := by
  cases ht : busTarget s.config a <;> cases ho : a.op <;> simp [Turn.safe, hostAccess, ht, ho] at h ⊢

/-- A run of k + 1 steps whose first one answers is the run of k steps from there. -/
theorem core_run_succ {s t : State} (k : Nat) (h : step s = .next t) :
    Sys2Proof.core.run (k + 1) s = Sys2Proof.core.run k t := by
  have h' : Sys2Proof.core.step s = .next t := h
  simp only [Host.Core.run, h']

end Sys2Proof.Machine
end

