-- ==== Sys2Proof/Tests/Slice0.lean ====
section
/-! SUPPORT. Tests of the model against values of the spec (the vector V<n> of 95_test_vectors.md or the rule a value
comes from is named with each test), the smoke tests of WellFormed, and for every obligation with hypotheses a witness
that meets them. Every test is one step, or one value. -/

namespace Sys2Proof.Tests

open Sys2Proof Sys2Proof.Machine

/-! ### Helpers -/

/-- Byte strings laid into BUF. -/
def cells (parts : List (Nat × Bytes)) : Memory := parts.foldl (fun m p => m.setBytes p.1 p.2) []

/-- The state after a command; the command's start where it does not answer a state. -/
def after (i : Instr) (s : State) : State :=
  match exec i s with
  | .next t    => t
  | .fault _   => s
  | .refused _ => s

/-- The state after a host access. -/
def afterHost (a : BusAccess) (s : State) : State :=
  match hostAccess a s with
  | .next t    => t
  | .fault _   => s
  | .refused _ => s

theorem exec_after (i : Instr) (s : State) : exec i s = .next (after i s) := by cases i <;> rfl

/-- What a test looks at: ERR, RESULT and CRC_STATE. -/
def view (s : State) : Byte × Word × Word := (s.err, s.result, s.crcState)

/-- A 32-bit access to the register window of the configuration in use. -/
def reg32 (off : Nat) (op : BusOp) : BusAccess := { addr := 0x40000000 + off, width := .w32, op := op }

/-- An access to the buffer window of the configuration in use. -/
def buf (off : Nat) (w : Width) (op : BusOp) : BusAccess := { addr := 0x40001000 + off, width := w, op := op }

/-- The raw private key a of V14. -/
def keyA : Bytes := beBytes 32 0x77076d0a7318a57d3c16c17251b26645df4c2f87ebc0992ab177fba51db92c2a

/-- The public key A of V22. -/
def pubA : Bytes := beBytes 32 0x8520f0098930a754748b7ddcb43ef75a0dbf3a0d26381af4eba4a98eaa9b4e6a

/-- The raw private key b of V14. -/
def keyB : Bytes := beBytes 32 0x5dab087e624a8a4b79e17f8b83800ee66f3bb1292618b6fd1c2f8b27ff88e0eb

/-- The public key B of V22. -/
def pubB : Bytes := beBytes 32 0xde9edb7d7b7dc1b4d35b61c2ece435373f8343c85b78674dadfc7e146f882b4f

/-- The ephemeral draw of V60. -/
def drawE1 : Bytes := beBytes 32 0x202122232425262728292a2b2c2d2e2f303132333435363738393a3b3c3d3e3f

/-- The nonce draw of V60. -/
def nonceE1 : Bytes := beBytes 12 0xa0a1a2a3a4a5a6a7a8a9aaab

/-- The ephemeral_public field of E1 (V60). -/
def epkE1 : Bytes := beBytes 32 0x358072d6365880d1aeea329adf9121383851ed21a28e3b75e965d0d2cd166254

/-- E1 (V60): "ping" sealed to B. -/
def envE1 : Bytes :=
  epkE1 ++ nonceE1 ++ beBytes 4 0xd4e6c945 ++ beBytes 16 0xb203f4426ec30d68b35e66ea2adca4aa

/-- "ping". -/
def ping : Bytes := beBytes 4 0x70696e67

/-- "123456789". -/
def digits : Bytes := beBytes 9 0x313233343536373839

/-! ### WellFormed (R6, R100, R106) -/

theorem test_wellFormed_accepts_a_command_word : ({ rsv := 0, op := 0x21 } : CommandWord).wellFormed = true := by decide

theorem test_wellFormed_refuses_reserved_bits :
    ({ rsv := 1, op := 0x20 } : CommandWord).wellFormed = false ∧
    ({ rsv := 0x800000, op := 0x01 } : CommandWord).wellFormed = false := by decide

theorem test_wellFormed_refuses_unassigned_opcodes :
    ({ rsv := 0, op := 0x00 } : CommandWord).wellFormed = false ∧
    ({ rsv := 0, op := 0x05 } : CommandWord).wellFormed = false ∧
    ({ rsv := 0, op := 0x22 } : CommandWord).wellFormed = false := by decide

/-- A command has no field that could be ill formed (R102): the check refuses no term. -/
theorem test_wellFormed_has_no_illFormed_command : ∀ i : Instr, i.wellFormed = true := by intro i; cases i <;> rfl

theorem test_wellFormed_refuses_bad_configurations :
    ¬{ Config.vectors with bufSize := 63 }.wellFormed ∧
    ¬{ Config.vectors with bufSize := 2 ^ 31 + 1 }.wellFormed ∧
    ¬{ Config.vectors with regBase := 0x40000004 }.wellFormed ∧
    ¬{ Config.vectors with bufBase := 0x40001002 }.wellFormed ∧
    ¬{ Config.vectors with bufBase := 0x400000FC }.wellFormed := by decide

theorem test_wellFormed_accepts_the_bounds :
    Config.vectors.wellFormed ∧ { Config.vectors with bufSize := 64 }.wellFormed ∧
    { Config.vectors with bufSize := 2 ^ 31 }.wellFormed ∧
    { Config.vectors with bufBase := 0x40000100 }.wellFormed := by decide

/-! ### Decode: words written out bit by bit, RSV then OP (R100, R104, V70) -/

theorem test_decode_crc_family :
    decode 0b000000000000000000000000_00000001 = .command .crcInit ∧
    decode 0b000000000000000000000000_00000010 = .command .crcUpdate ∧
    decode 0b000000000000000000000000_00000011 = .command .crcFinalize ∧
    decode 0b000000000000000000000000_00000100 = .command .crcCompute := by decide

theorem test_decode_x25519_family :
    decode 0b000000000000000000000000_00010000 = .command .keygen ∧
    decode 0b000000000000000000000000_00010001 = .command .derivePublic := by decide

theorem test_decode_envelope_family :
    decode 0b000000000000000000000000_00100000 = .command .encrypt ∧
    decode 0b000000000000000000000000_00100001 = .command .decrypt := by decide

theorem test_decode_illegal :
    decode 0b000000000000000000000000_00000000 = .illegal .unassignedOpcode ∧
    decode 0b000000000000000000000000_00010010 = .illegal .unassignedOpcode ∧
    decode 0b000000000000000000000001_00100000 = .illegal .reservedBitsSet ∧
    decode 0b100000000000000000000000_00000001 = .illegal .reservedBitsSet := by decide

/-- The word travels little-endian (R73, R110). -/
theorem test_decodeBytes_is_little_endian :
    decodeBytes [0x21, 0x00, 0x00, 0x00, 0xAA] = some (.command .decrypt, [0xAA]) ∧
    decodeBytes [0x00, 0x00, 0x00, 0x21] = some (.illegal .reservedBitsSet, []) ∧
    decodeBytes [0x21, 0x00, 0x00] = none := by decide

theorem test_decodeTableWord :
    decodeTableWord 32 0x21 = some .decrypt ∧ decodeTableWord 8 0x10 = some .keygen ∧
    decodeTableWord 32 0x120 = none := by decide

/-! ### CRC-32 -/

/-- V17, and R151's table. -/
theorem test_crc_table :
    (crcTable 0x00, crcTable 0x01, crcTable 0x80, crcTable 0xFF) =
      (0x00000000, 0x77073096, 0xEDB88320, 0x2D02EF8D) := by decide +kernel

/-- V1, V2, V16. -/
theorem test_crc_values :
    (crc32Compute digits, crc32Compute [], crc32Compute [0xff, 0xff, 0xff, 0xff], crc32Compute [0x00]) =
      (0xCBF43926, 0x00000000, 0xFFFFFFFF, 0xD202EF8D) := by decide +kernel

/-- V18, row 1. -/
theorem test_exec_crcInit : view (after .crcInit { State.reset with crcState := 0x12345678, err := 0x05 }) =
    (0x00, 0x00000000, 0xFFFFFFFF) := by decide

/-- V5, V7: the accumulator is not the checksum. -/
theorem test_exec_crcUpdate :
    view (after .crcUpdate { State.reset with buf := cells [(0, digits)], srcLen := 9 }) =
      (0x00, 0x00000000, 0x340BC6D9) := by decide +kernel

/-- V18, rows 3 and 4: an empty region at the end of BUF is valid, one byte more is not. -/
theorem test_exec_crcUpdate_at_the_end :
    view (after .crcUpdate { State.reset with srcAddr := 0x1000 }) = (0x00, 0x00000000, 0xFFFFFFFF) ∧
    view (after .crcUpdate { State.reset with srcAddr := 0x1000, srcLen := 1 }) = (0x11, 0x00000000, 0xFFFFFFFF) := by
  decide

/-- V18, rows 2 and 8. -/
theorem test_exec_crcFinalize :
    view (after .crcFinalize { State.reset with crcState := 0x340BC6D9 }) = (0x00, 0xCBF43926, 0x340BC6D9) ∧
    view (after .crcFinalize { State.reset with crcState := 0x00000000 }) = (0x00, 0xFFFFFFFF, 0x00000000) := by decide

/-- V18, row 5: the last byte of BUF. -/
theorem test_exec_crcCompute :
    view (after .crcCompute { State.reset with
        buf := cells [(0xFFF, [0x41])], srcAddr := 0xFFF, srcLen := 1, crcState := 0x11111111 }) =
      (0x00, 0xD3D99E8B, 0x11111111) := by decide +kernel

/-- V18, rows 6 and 7: no wrap-around, and registers the command does not use are ignored. -/
theorem test_exec_crcCompute_corners :
    view (after .crcCompute { State.reset with srcAddr := 0xFFFFFFFF, srcLen := 0xFFFFFFFF }) =
      (0x11, 0x00000000, 0xFFFFFFFF) ∧
    view (after .crcCompute { State.reset with keyLen := 7 }) = (0x00, 0x00000000, 0xFFFFFFFF) := by decide

/-! ### X25519 -/

/-- V12, V13, V14. -/
theorem test_clamp :
    clamp (List.replicate 32 0xff) = 0xf8 :: List.replicate 30 0xff ++ [0x7f] ∧
    clamp (zeros 32) = zeros 31 ++ [0x40] ∧
    clamp keyB = beBytes 32 0x58ab087e624a8a4b79e17f8b83800ee66f3bb1292618b6fd1c2f8b27ff88e06b := by decide +kernel

/-- V21: the u of this vector has bit 255 set. -/
theorem test_x25519 :
    x25519 (beBytes 32 0x4b66e9d4d1b4673c5ad22691957d6af5c11b6421e0ea01d42ca4169e7918ba0d)
        (beBytes 32 0xe5210f12786811d3f4b7959d0538ae2c31dbe7106fc03c3efc4cd549c715a493) =
      beBytes 32 0x95cbde9476e8907d7aade45cb4b873f88b595a68799fa152e6f8f7647aac7957 := by decide +kernel

/-- V26: u = 1 has low order. -/
theorem test_x25519_low_order : isLowOrder (x25519 keyA (0x01 :: zeros 31)) = true := by decide +kernel

/-- The state of V72's KEYGEN at the last 64 bytes of BUF. -/
def keygenState : State :=
  { State.reset with dstAddr := 0xFC0, dstCap := 64, entropy := [.bytes keyA, .fail] }

/-- V72. -/
theorem test_exec_keygen :
    (fun t : State => (view t, t.memRead 0xFC0 64, t.entropy, t.draws)) (after .keygen keygenState) =
      ((0x00, 64, 0xFFFFFFFF), clamp keyA ++ pubA, [.fail], 1) := by decide +kernel

/-- V71, V74: the argument checks come before the draw; RNG_FAIL makes no request; a failed draw sets it. -/
theorem test_exec_keygen_errors :
    (after .keygen { keygenState with dstCap := 63 }).err = 0x03 ∧
    (after .keygen { keygenState with dstAddr := 0xFC1 }).err = 0x11 ∧
    (fun t : State => (t.err, t.entropy, t.rngFail)) (after .keygen { keygenState with rngFail := true }) =
      (0x06, keygenState.entropy, true) ∧
    (fun t : State => (t.statusWord, t.entropy, t.buf)) (after .keygen { keygenState with entropy := [.fail] }) =
      (0x00000604, [], []) := by decide

/-- The state of V72's overlapping DERIVE_PUBLIC. -/
def deriveState : State :=
  { State.reset with buf := cells [(0x100, keyA)], keyAddr := 0x100, keyLen := 32, dstAddr := 0x110, dstCap := 32 }

/-- V72: the key is read before the destination is written. -/
theorem test_exec_derivePublic :
    (fun t : State => (view t, t.memRead 0x110 32, t.memRead 0x100 16)) (after .derivePublic deriveState) =
      ((0x00, 32, 0xFFFFFFFF), pubA, keyA.take 16) := by decide +kernel

/-- V71. -/
theorem test_exec_derivePublic_errors :
    (after .derivePublic { deriveState with keyLen := 33 }).err = 0x01 ∧
    (after .derivePublic { deriveState with dstCap := 31 }).err = 0x03 ∧
    (after .derivePublic { deriveState with keyAddr := 0xFE1 }).err = 0x11 := by decide

/-! ### SHA-256, HMAC, HKDF -/

/-- V34: the shortest message of two blocks. -/
theorem test_sha256 : sha256 (List.replicate 56 0x61) =
    beBytes 32 0xb35439a4ac6f0948b6d6f9e3c6af0f5f590ce20f1bde7090ef7970686ec6738a := by decide +kernel

/-- V36. -/
theorem test_hmac : hmac (List.replicate 20 0x0b) (beBytes 8 0x4869205468657265) =
    beBytes 32 0xb0344c61d8db38535ca8afceaf0bf12b881dc200c9833da726e9376c2e32cff7 := by decide +kernel

/-- V39: two blocks of Expand. -/
theorem test_hkdf :
    hkdfExpand (hkdfExtract (beBytes 13 0x000102030405060708090a0b0c) (List.replicate 22 0x0b))
        (beBytes 10 0xf0f1f2f3f4f5f6f7f8f9) 42 =
      beBytes 42
        0x3cb25f25faacd57a90434f64d0362f2a2d2d0a90cf1a5a4c5db02d56ecc4c5bf34007208d5b887185865 := by decide +kernel

/-- V43. -/
theorem test_kdf :
    kdf Config.vectors.hkdfInfo (beBytes 32 0x4a5d9d5ba4ce2de1728e3bf480350f25e07e21c947d19e3376f09b3c1e161742) =
      beBytes 32 0xbc5b919fc70714cfc867ea96d4a69d7aaef3b563f8d90a919b7b928385aeac32 := by decide +kernel

/-! ### AES-256 and GCM -/

/-- V54. -/
theorem test_aes_parts :
    xtime 0x57 = 0xae ∧ gf8Mul 0x57 0x83 = 0xc1 ∧ sbox 0x00 = 0x63 ∧ sbox 0x53 = 0xed ∧ sbox 0xff = 0x16 ∧
    mixColumn 0xdb 0x13 0x53 0x45 = [0x8e, 0x4d, 0xa1, 0xbc] := by decide +kernel

/-- V50. -/
theorem test_aes256 :
    aes256 (beBytes 32 0x000102030405060708090a0b0c0d0e0f101112131415161718191a1b1c1d1e1f)
        (beBytes 16 0x00112233445566778899aabbccddeeff) =
      beBytes 16 0x8ea2b7ca516745bfeafc49904b496089 := by decide +kernel

/-- V56: the check value H · H of gfmul. -/
theorem test_gfmul : gfmul 0xdc95c078a2408989ad48a21492842087 0xdc95c078a2408989ad48a21492842087 =
    0xc7c27e834f1e393c2a82d138ce9261b7 := by decide +kernel

/-- V58, second row: a partial last block. -/
theorem test_gcm :
    gcmAE (beBytes 32 0x000102030405060708090a0b0c0d0e0f101112131415161718191a1b1c1d1e1f)
        (beBytes 12 0x000102030405060708090a0b) (zeros 17) [] =
      (beBytes 17 0x4702d61bc5e5c21b8d41978bb1e9786d83, beBytes 16 0x7f1fc606679f826816d21db55ea98129) := by
  decide +kernel

/-! ### The envelope -/

/-- The shared secret of E1 (V45). -/
def ssE1 : Bytes := beBytes 32 0x5a9bec000bd02417f65f9e9e82fb9b27736a6c7b674aa8deca3b70d3d3f0f77f

/-- V45, V60: both sides of E1 compute its shared secret, and the sender its ephemeral public key. -/
theorem test_sharedSecret_of_E1 :
    x25519 (clamp keyB) epkE1 = ssE1 ∧ x25519 (clamp drawE1) pubB = ssE1 ∧
    x25519 (clamp drawE1) basePoint = epkE1 := by decide +kernel

/-- The state of V60's and V73's ENCRYPT: in place, with E1's draws. -/
def encryptState : State :=
  { State.reset with
    buf     := cells [(0, ping), (0x160, pubB)]
    srcAddr := 0, srcLen := 4, keyAddr := 0x160, keyLen := 32, dstAddr := 0, dstCap := 64
    entropy := [.bytes drawE1, .bytes nonceE1] }

/-- V60, V73. -/
theorem test_exec_encrypt :
    ((after .encrypt encryptState).err, (after .encrypt encryptState).result,
      (after .encrypt encryptState).memRead 0 64, (after .encrypt encryptState).draws) =
      (0x00, 64, envE1, 2) := by decide +kernel

theorem encrypt_err : (after .encrypt encryptState).err = 0x00 := (Prod.mk.inj test_exec_encrypt).1

theorem encrypt_envelope : (after .encrypt encryptState).memRead 0 64 = envE1 :=
  (Prod.mk.inj (Prod.mk.inj (Prod.mk.inj test_exec_encrypt).2).2).1

/-- V71, V74: lengths do not wrap, the checks come before the draw, and no draw is made while RNG_FAIL = 1. -/
theorem test_exec_encrypt_errors :
    (after .encrypt { encryptState with dstCap := 63 }).err = 0x03 ∧
    (after .encrypt { encryptState with srcAddr := 0xFFD, keyAddr := 0xFFF }).err = 0x11 ∧
    (after .encrypt { encryptState with srcLen := 0xFFFFFFFF, dstCap := 0xFFFFFFFF, rngFail := true }).err = 0x03 ∧
    (fun t : State => (t.err, t.entropy)) (after .encrypt { encryptState with rngFail := true }) =
      (0x06, encryptState.entropy) := by decide

/-- The state of V73's DECRYPT: E1 at 0, opened in place with b. -/
def decryptState : State :=
  { State.reset with
    buf     := cells [(0, envE1), (0x140, keyB)]
    srcAddr := 0, srcLen := 64, keyAddr := 0x140, keyLen := 32, dstAddr := 0, dstCap := 4 }

/-- V60, V73: the rest of E1 stays. -/
theorem test_exec_decrypt :
    ((after .decrypt decryptState).err, (after .decrypt decryptState).result,
      (after .decrypt decryptState).memRead 0 4, (after .decrypt decryptState).memRead 4 60) =
      (0x00, 4, ping, envE1.drop 4) := by decide +kernel

theorem decrypt_err : (after .decrypt decryptState).err = 0x00 := (Prod.mk.inj test_exec_decrypt).1

/-- V71: the order of the checks. -/
theorem test_exec_decrypt_errors :
    (after .decrypt { decryptState with srcLen := 59, keyLen := 0, dstCap := 0 }).err = 0x04 ∧
    (after .decrypt { decryptState with keyLen := 31, dstCap := 0 }).err = 0x01 ∧
    (after .decrypt { decryptState with dstCap := 3, srcAddr := 0xFFFFFF00 }).err = 0x03 := by decide

/-! ### The engine, the host's accesses and reset -/

/-- V70: an ILLEGAL word completes with IllegalCommand; CMD keeps it. -/
theorem test_step_illegal_word :
    (match step (State.reset.withFetchWord 32 0x120) with
     | .next t    => (t.err, t.cmd, t.busy)
     | .fault _   => (0xff, 0, true)
     | .refused _ => (0xff, 0, true)) = (0x10, 0x120, false) := by decide

/-- A command word placed for the next step is what that step runs. -/
theorem test_step_runs_the_placed_word :
    step (State.reset.withFetchWord 32 0x03) = exec .crcFinalize { State.reset with cmd := 3, busy := true } := rfl

/-- V75: a dropped write, the STATUS write that clears HAZARD, and the 8-bit read of RESULT. -/
theorem test_hostAccess_while_busy :
    (fun t : State => (t.srcLen, t.hazard)) (afterHost (reg32 0x14 (.write 4)) { State.reset with busy := true, srcLen := 9 })
      = (9, true) ∧
    (afterHost (reg32 0x04 (.write 2)) { State.reset with busy := true, hazard := true }).hazard = false ∧
    (afterHost (reg32 0x04 .read) { State.reset with busy := true, err := 0x05 }).reply = .readData .w32 0x0501 ∧
    hostAccess { reg32 0x08 .read with width := .w8 } State.reset = .fault .busError :=
  ⟨by decide, by decide, by decide, rfl⟩

/-- R73: a 32-bit write is little-endian; R76, R77: a misaligned access is a bus error; R80: an address outside. -/
theorem test_hostAccess_buffer :
    (afterHost (buf 0x10 .w32 (.write 0x04030201)) State.reset).buf = [(0x10, 1), (0x11, 2), (0x12, 3), (0x13, 4)] ∧
    hostAccess (buf 0x11 .w16 .read) State.reset = .fault .busError ∧
    hostAccess (buf 0x1000 .w8 .read) State.reset = .refused .outsideWindows :=
  ⟨by decide, rfl, rfl⟩

/-- V76. -/
theorem test_reset :
    (fun t : State => (view t, t.cmd, t.statusWord, t.buf, t.dstCap)) (State.resetStep { encryptState with busy := true, cmd := 0x20 }) =
      ((0x00, 0x00000000, 0xFFFFFFFF), 0, 0, [], 0) := by decide

/-- The first lines of program P1, as the bus sees them. -/
theorem test_program_turns :
    programTurns Config.vectors (.wrb 0x010 [0x41, 0x42] :: expandPseudo (.crcUpdate 0x000 4)) =
      [.host (buf 0x10 .w8 (.write 0x41)), .host (buf 0x11 .w8 (.write 0x42)), .host (reg32 0x10 (.write 0)),
       .host (reg32 0x14 (.write 4)), .host (reg32 0x00 (.write 2)), .engine, .host (reg32 0x04 .read)] := by decide

/-! ### Witnesses: concrete states and operands that meet the hypotheses of a statement together -/

theorem test_witness_IllegalWordsCompleteWithIllegalCommand :
    (∃ s : State, s.busy = false) ∧
    (∃ (s : State) (why : IllegalReason), s.busy = true ∧ decode s.cmd = .illegal why) ∧
    (∃ (s : State) (why : IllegalReason), s.busy = true ∧ decode s.cmd = .illegal why ∧ s.cmd.toNat / 256 ≠ 0) :=
  ⟨⟨State.reset, by decide⟩, ⟨{ State.reset with busy := true, cmd := 0x22 }, .unassignedOpcode, by decide⟩,
    ⟨{ State.reset with busy := true, cmd := 0x101 }, .reservedBitsSet, by decide⟩⟩

theorem test_witness_DecodeOfEncodeIsTheCommand : Instr.wellFormed .keygen = true ∧ Instr.wellFormed .crcInit = true := by
  decide

theorem test_witness_StepRunsTheNextTurn :
    (∃ s : State, s.busy = true ∧ decode s.cmd = .command .crcInit ∧ s.agenda = [.engine, .reset]) ∧
    (∃ s : State, s.busy = true ∧ decode s.cmd = .command .decrypt ∧ s.agenda = []) ∧
    (∃ s : State, s.busy = false ∧ s.agenda = [.engine]) ∧ (∃ s : State, s.busy = false ∧ s.agenda = []) ∧
    (∃ s : State, s.agenda = [.host (reg32 0 .read)]) ∧ (∃ s : State, s.agenda = [.reset]) :=
  ⟨⟨{ State.reset with busy := true, cmd := 1, agenda := [.engine, .reset] }, by decide⟩,
    ⟨{ State.reset with busy := true, cmd := 0x21 }, by decide⟩, ⟨{ State.reset with agenda := [.engine] }, by decide⟩,
    ⟨State.reset, by decide⟩, ⟨{ State.reset with agenda := [.host (reg32 0 .read)] }, by decide⟩,
    ⟨{ State.reset with agenda := [.reset] }, by decide⟩⟩

theorem test_witness_PlacedWordRunsNext :
    decodeTableWord 32 0x01 = some .crcInit ∧ decodeTableWord 6 0xE1 = some .decrypt := by decide

theorem test_witness_ErrorsLeaveEverythingButTheCode :
    exec .keygen keygenState = .next (after .keygen keygenState) ∧
    (after .keygen { keygenState with entropy := [.fail] }).err ≠ 0x00 ∧
    (after .decrypt State.reset).err ≠ 0x00 := by
  exact ⟨exec_after _ _, by decide, by decide⟩

theorem test_witness_CommandsReportOnlyTheirCodes : ∀ i : Instr, exec i State.reset = .next (after i State.reset) :=
  fun i => exec_after i _

theorem test_witness_CrcUpdateAdvancesTheAccumulator :
    (∃ s : State, s.srcAddr.toNat + s.srcLen.toNat = s.config.bufSize) ∧
    (∃ s : State, s.config.bufSize + 1 = s.srcAddr.toNat + s.srcLen.toNat) :=
  ⟨⟨{ State.reset with srcAddr := 0xFF7, srcLen := 9 }, by decide⟩,
    ⟨{ State.reset with srcAddr := 0xFFF, srcLen := 2 }, by decide⟩⟩

theorem test_witness_CrcComputeIsOneShot :
    (∃ s : State, s.srcAddr.toNat + s.srcLen.toNat = s.config.bufSize) ∧
    (∃ s : State, s.config.bufSize + 1 = s.srcAddr.toNat + s.srcLen.toNat) :=
  test_witness_CrcUpdateAdvancesTheAccumulator

/-- Also of the third clause of CrcInitLoadsInit and of CrcFinalizeReportsTheChecksum. -/
theorem test_witness_AdjacentCrcUpdatesAreOne :
    ∃ (s t u v : State) (a n m : Word),
      n.toNat + m.toNat < 2 ^ 32 ∧ a.toNat + n.toNat < 2 ^ 32 ∧ a.toNat + n.toNat + m.toNat = s.config.bufSize ∧
      exec .crcUpdate { s with srcAddr := a, srcLen := n } = .next t ∧
      exec .crcUpdate { t with srcAddr := a + n, srcLen := m } = .next u ∧
      exec .crcUpdate { s with srcAddr := a, srcLen := n + m } = .next v :=
  ⟨{ State.reset with buf := cells [(0xFF7, digits)] }, _, _, _, 0xFF7, 4, 5, by decide, by decide, by decide,
    exec_after _ _, exec_after _ _, exec_after _ _⟩

/-- Of ClampFixesFiveBits, DecodedScalarRange and UCoordinatesAreMaskedAndReduced. -/
theorem test_witness_byte_strings_of_32 : keyA.length = 32 ∧ (zeros 32).length = 32 ∧ 18 < 19 ∧ 0 < 19 := by
  decide +kernel

theorem test_witness_ZeroPointIsRejected :
    decodeU (zeros 32) = 0 ∧ decodeU (beBytes 32 0xedffffffffffffffffffffffffffffffffffffffffffffffffffffffffffff7f) = 0 ∧
    (∃ (s : State) (raw : Bytes), s.keyLen.toNat = 32 ∧ s.srcLen.toNat + 60 = s.dstCap.toNat ∧
      s.srcAddr.toNat + s.srcLen.toNat = s.config.bufSize ∧ s.keyAddr.toNat + 32 ≤ s.config.bufSize ∧
      s.dstAddr.toNat + (s.srcLen.toNat + 60) ≤ s.config.bufSize ∧ s.rngFail = false ∧
      s.work.nextAnswer 32 = some raw ∧ decodeU (s.memRead s.keyAddr.toNat 32) = 0) ∧
    (∃ s : State, 60 = s.srcLen.toNat ∧ s.keyLen.toNat = 32 ∧ s.srcLen.toNat - 60 = s.dstCap.toNat ∧
      s.srcAddr.toNat + s.srcLen.toNat ≤ s.config.bufSize ∧ s.keyAddr.toNat + 32 = s.config.bufSize ∧
      s.dstAddr.toNat + (s.srcLen.toNat - 60) ≤ s.config.bufSize ∧ decodeU (s.memRead s.srcAddr.toNat 32) = 0) := by
  refine ⟨by decide +kernel, by decide +kernel, ⟨{ encryptState with
      buf := cells [(0x160, zeros 32)], srcAddr := 0xFFC }, drawE1, by decide +kernel⟩, ⟨{ decryptState with
      buf := cells [(0, zeros 32)], srcLen := 60, keyAddr := 0xFE0, dstCap := 0 }, by decide +kernel⟩⟩

theorem test_witness_KeygenWritesAFreshKeyPair :
    (∃ s : State, s.dstCap.toNat = 63) ∧
    (∃ s : State, 64 = s.dstCap.toNat ∧ s.config.bufSize + 1 = s.dstAddr.toNat + 64) ∧
    (∃ s : State, 64 = s.dstCap.toNat ∧ s.dstAddr.toNat + 64 = s.config.bufSize ∧ s.rngFail = true) ∧
    (∃ s : State, 64 = s.dstCap.toNat ∧ s.dstAddr.toNat + 64 = s.config.bufSize ∧ s.rngFail = false ∧
      s.work.nextAnswer 32 = none) ∧
    (∃ (s : State) (raw : Bytes), 64 = s.dstCap.toNat ∧ s.dstAddr.toNat + 64 = s.config.bufSize ∧ s.rngFail = false ∧
      s.work.nextAnswer 32 = some raw) :=
  ⟨⟨{ keygenState with dstCap := 63 }, by decide⟩, ⟨{ keygenState with dstAddr := 0xFC1 }, by decide⟩,
    ⟨{ keygenState with rngFail := true }, by decide⟩, ⟨{ keygenState with entropy := [.fail] }, by decide⟩,
    ⟨keygenState, keyA, by decide +kernel⟩⟩

theorem test_witness_DerivePublicWritesThePublicKey :
    (∃ s : State, s.keyLen.toNat = 31) ∧ (∃ s : State, s.keyLen.toNat = 32 ∧ s.dstCap.toNat = 31) ∧
    (∃ s : State, s.keyLen.toNat = 32 ∧ 32 = s.dstCap.toNat ∧ s.config.bufSize + 1 = s.keyAddr.toNat + 32) ∧
    (∃ s : State, s.keyLen.toNat = 32 ∧ 32 = s.dstCap.toNat ∧ s.config.bufSize + 1 = s.dstAddr.toNat + 32) ∧
    (∃ s : State, s.keyLen.toNat = 32 ∧ 32 = s.dstCap.toNat ∧ s.keyAddr.toNat + 32 = s.config.bufSize ∧
      s.dstAddr.toNat + 32 = s.config.bufSize) :=
  ⟨⟨{ deriveState with keyLen := 31 }, by decide⟩, ⟨{ deriveState with dstCap := 31 }, by decide⟩,
    ⟨{ deriveState with keyAddr := 0xFE1 }, by decide⟩, ⟨{ deriveState with dstAddr := 0xFE1 }, by decide⟩,
    ⟨{ deriveState with keyAddr := 0xFE0, dstAddr := 0xFE0 }, by decide⟩⟩

theorem test_witness_KeygenAndDerivePublicAgree :
    ∃ (s t s' t' : State) (raw : Bytes), exec .keygen s = .next t ∧ t.err = 0x00 ∧ s.work.nextAnswer 32 = some raw ∧
      s'.memRead s'.keyAddr.toNat 32 = raw ∧ exec .derivePublic s' = .next t' ∧ t'.err = 0x00 :=
  ⟨keygenState, after .keygen keygenState, deriveState, after .derivePublic deriveState, keyA, exec_after _ _,
    congrArg (fun v => v.1.1) test_exec_keygen, by decide +kernel, by decide +kernel, exec_after _ _,
    congrArg (fun v => v.1.1) test_exec_derivePublic⟩

/-- The other way the key can stand: as KEYGEN wrote it. -/
theorem test_witness_KeygenAndDerivePublicAgree_clamped :
    (fun s t : State => s.memRead s.keyAddr.toNat 32 == (t.memRead 0xFC0 64).take 32)
      { deriveState with buf := cells [(0x100, clamp keyA)] } (after .keygen keygenState) = true := by
  have h : (after .keygen keygenState).memRead 0xFC0 64 = clamp keyA ++ pubA := congrArg (fun v => v.2.1) test_exec_keygen
  simp only [h]
  decide +kernel

/-- Of ShaScheduleMeetsItsRecurrence, KeyExpansionMeetsItsRecurrence, GcmOpensWhatItSealed, EmptyPlaintextTag and
CounterModeUndoesItself. -/
theorem test_witness_blocks_and_keys :
    (zeros 64).length = 64 ∧ (16 : Nat) ≤ 16 ∧ 63 < 64 ∧ keyB.length = 32 ∧ (8 : Nat) ≤ 8 ∧ 59 < 60 ∧
    (∃ t : Bytes, t ≠ (gcmAE keyA (zeros 12) [] []).2) ∧ (∀ b : Bytes, ((fun _ : Bytes => zeros 16) b).length = 16) := by
  refine ⟨by decide, by decide, by decide, by decide +kernel, by decide, by decide, ⟨[], ?_⟩, fun _ => rfl⟩
  intro h
  have := congrArg List.length h
  rw [gcmAE, gcmTag_length _ _ _ _ (by decide +kernel)] at this
  exact absurd this (by decide)

theorem test_witness_EncryptSealsAnEnvelope :
    (∃ s : State, s.keyLen.toNat = 33) ∧
    (∃ s : State, s.keyLen.toNat = 32 ∧ s.dstCap.toNat + 1 = s.srcLen.toNat + 60) ∧
    (∃ s : State, s.keyLen.toNat = 32 ∧ s.srcLen.toNat + 60 = s.dstCap.toNat ∧
      s.config.bufSize + 1 = s.srcAddr.toNat + s.srcLen.toNat) ∧
    (∃ s : State, s.keyLen.toNat = 32 ∧ s.srcLen.toNat + 60 = s.dstCap.toNat ∧
      s.config.bufSize + 1 = s.keyAddr.toNat + 32) ∧
    (∃ s : State, s.keyLen.toNat = 32 ∧ s.srcLen.toNat + 60 = s.dstCap.toNat ∧
      s.config.bufSize + 1 = s.dstAddr.toNat + (s.srcLen.toNat + 60)) ∧
    (∃ s : State, s.keyLen.toNat = 32 ∧ s.srcLen.toNat + 60 = s.dstCap.toNat ∧
      s.srcAddr.toNat + s.srcLen.toNat = s.config.bufSize ∧ s.keyAddr.toNat + 32 = s.config.bufSize ∧
      s.dstAddr.toNat + (s.srcLen.toNat + 60) = s.config.bufSize ∧ s.rngFail = true) ∧
    (∃ s : State, s.keyLen.toNat = 32 ∧ s.srcLen.toNat + 60 = s.dstCap.toNat ∧
      s.srcAddr.toNat + s.srcLen.toNat ≤ s.config.bufSize ∧ s.keyAddr.toNat + 32 ≤ s.config.bufSize ∧
      s.dstAddr.toNat + (s.srcLen.toNat + 60) ≤ s.config.bufSize ∧ s.rngFail = false ∧ s.work.nextAnswer 32 = none) :=
  ⟨⟨{ encryptState with keyLen := 33 }, by decide⟩, ⟨{ encryptState with dstCap := 63 }, by decide⟩,
    ⟨{ encryptState with srcAddr := 0xFFD }, by decide⟩, ⟨{ encryptState with keyAddr := 0xFE1 }, by decide⟩,
    ⟨{ encryptState with dstAddr := 0xFC1 }, by decide⟩,
    ⟨{ encryptState with srcAddr := 0xFFC, keyAddr := 0xFE0, dstAddr := 0xFC0, rngFail := true }, by decide⟩,
    ⟨{ encryptState with entropy := [.fail] }, by decide⟩⟩

/-- The longest Expand, a shorter one, and the two equal or empty. -/
theorem test_witness_KeyDerivationIsTwoHmacs :
    255 * 32 ≤ 255 * 32 ∧ 33 ≤ 255 * 32 ∧ (0 : Nat) ≤ 255 * 32 := by decide

/-- The success of ENCRYPT, and the failure of its nonce draw, on E1's operands. -/
theorem test_witness_EncryptSealsAnEnvelope_success :
    encryptState.keyLen.toNat = 32 ∧ encryptState.srcLen.toNat + 60 ≤ encryptState.dstCap.toNat ∧
    encryptState.srcAddr.toNat + encryptState.srcLen.toNat ≤ encryptState.config.bufSize ∧
    encryptState.keyAddr.toNat + 32 ≤ encryptState.config.bufSize ∧
    encryptState.dstAddr.toNat + (encryptState.srcLen.toNat + 60) ≤ encryptState.config.bufSize ∧
    encryptState.rngFail = false ∧ encryptState.work.nextAnswer 32 = some drawE1 ∧
    encryptState.memRead encryptState.keyAddr.toNat 32 = pubB ∧ x25519 (clamp drawE1) pubB ≠ zeros 32 ∧
    encryptState.work.advance.nextAnswer 12 = some nonceE1 ∧
    { encryptState with entropy := [.bytes drawE1, .fail] }.work.advance.nextAnswer 12 = none := by
  rw [test_sharedSecret_of_E1.2.1]
  decide +kernel

theorem test_witness_DecryptOpensAnEnvelope :
    (∃ s : State, s.srcLen.toNat = 59) ∧ (∃ s : State, 60 = s.srcLen.toNat ∧ s.keyLen.toNat = 31) ∧
    (∃ s : State, 60 ≤ s.srcLen.toNat ∧ s.keyLen.toNat = 32 ∧ s.dstCap.toNat + 1 = s.srcLen.toNat - 60) ∧
    (∃ s : State, 60 ≤ s.srcLen.toNat ∧ s.keyLen.toNat = 32 ∧ s.srcLen.toNat - 60 ≤ s.dstCap.toNat ∧
      s.config.bufSize + 1 = s.srcAddr.toNat + s.srcLen.toNat) ∧
    (∃ s : State, 60 ≤ s.srcLen.toNat ∧ s.keyLen.toNat = 32 ∧ s.srcLen.toNat - 60 ≤ s.dstCap.toNat ∧
      s.config.bufSize + 1 = s.keyAddr.toNat + 32) ∧
    (∃ s : State, 60 ≤ s.srcLen.toNat ∧ s.keyLen.toNat = 32 ∧ s.srcLen.toNat - 60 ≤ s.dstCap.toNat ∧
      s.config.bufSize + 1 = s.dstAddr.toNat + (s.srcLen.toNat - 60)) :=
  ⟨⟨{ decryptState with srcLen := 59 }, by decide⟩, ⟨{ decryptState with srcLen := 60, keyLen := 31 }, by decide⟩,
    ⟨{ decryptState with dstCap := 3 }, by decide⟩, ⟨{ decryptState with srcAddr := 0xFC1 }, by decide⟩,
    ⟨{ decryptState with keyAddr := 0xFE1 }, by decide⟩, ⟨{ decryptState with dstAddr := 0xFFD }, by decide⟩⟩

/-- The three ways DECRYPT can go on once its checks pass: E1 as it is, E1 with a flipped tag bit, and an all-zero
ephemeral key. -/
theorem test_witness_DecryptOpensAnEnvelope_success :
    60 ≤ decryptState.srcLen.toNat ∧ decryptState.keyLen.toNat = 32 ∧
    decryptState.srcLen.toNat - 60 ≤ decryptState.dstCap.toNat ∧
    decryptState.srcAddr.toNat + decryptState.srcLen.toNat ≤ decryptState.config.bufSize ∧
    decryptState.keyAddr.toNat + 32 ≤ decryptState.config.bufSize ∧
    decryptState.dstAddr.toNat + (decryptState.srcLen.toNat - 60) ≤ decryptState.config.bufSize ∧
    decryptState.memRead decryptState.srcAddr.toNat decryptState.srcLen.toNat = envE1 ∧
    decryptState.memRead decryptState.keyAddr.toNat 32 = keyB ∧
    slice envE1 0 32 = epkE1 ∧ x25519 (clamp keyB) epkE1 ≠ zeros 32 ∧ x25519 (clamp keyB) (zeros 32) = zeros 32 := by
  rw [test_sharedSecret_of_E1.1]
  decide +kernel

/-- The key of E1 opens E1's text (V60), and rejects a flipped tag bit (V63). -/
theorem test_witness_DecryptOpensAnEnvelope_gcm :
    (fun dk : Bytes =>
        (gcmAD dk nonceE1 (slice envE1 44 48) [] (slice envE1 48 64),
         gcmAD dk nonceE1 (slice envE1 44 48) [] ((slice envE1 48 64).modify 15 (· ^^^ 0x80))))
      (kdf Config.vectors.hkdfInfo ssE1) = (some ping, none) := by decide +kernel

theorem test_witness_EnvelopeLengthInvariant :
    State.reset.config.wellFormed ∧
    (exec .encrypt encryptState = .next (after .encrypt encryptState) ∧ (after .encrypt encryptState).err = 0x00) ∧
    (exec .decrypt decryptState = .next (after .decrypt decryptState) ∧ (after .decrypt decryptState).err = 0x00) :=
  ⟨by decide, ⟨exec_after _ _, encrypt_err⟩,
    ⟨exec_after _ _, decrypt_err⟩⟩

theorem bothSides :
    x25519 (clamp (decryptState.memRead decryptState.keyAddr.toNat 32)) (x25519 (clamp drawE1) basePoint) =
      x25519 (clamp drawE1) (encryptState.memRead encryptState.keyAddr.toNat 32) := by
  have h1 : decryptState.memRead decryptState.keyAddr.toNat 32 = keyB := by decide +kernel
  have h2 : encryptState.memRead encryptState.keyAddr.toNat 32 = pubB := by decide +kernel
  rw [h1, h2, test_sharedSecret_of_E1.2.2, test_sharedSecret_of_E1.1, test_sharedSecret_of_E1.2.1]

/-- On E1, whose two sides compute the shared secret of V45. -/
theorem test_witness_DecryptUndoesEncrypt :
    ∃ (s t s' : State) (raw : Bytes),
      exec .encrypt s = .next t ∧ t.err = 0x00 ∧ s.work.nextAnswer 32 = some raw ∧
      x25519 (clamp (s'.memRead s'.keyAddr.toNat 32)) (x25519 (clamp raw) basePoint) =
        x25519 (clamp raw) (s.memRead s.keyAddr.toNat 32) ∧
      s'.config.hkdfInfo = s.config.hkdfInfo ∧ s'.srcLen.toNat = s.srcLen.toNat + 60 ∧
      s'.memRead s'.srcAddr.toNat s'.srcLen.toNat = t.memRead s.dstAddr.toNat (s.srcLen.toNat + 60) ∧
      s'.keyLen.toNat = 32 ∧ s.srcLen.toNat ≤ s'.dstCap.toNat ∧
      s'.srcAddr.toNat + s'.srcLen.toNat ≤ s'.config.bufSize ∧ s'.keyAddr.toNat + 32 ≤ s'.config.bufSize ∧
      s'.dstAddr.toNat + s.srcLen.toNat ≤ s'.config.bufSize :=
  ⟨encryptState, after .encrypt encryptState, decryptState, drawE1, exec_after _ _,
    encrypt_err, by decide +kernel, bothSides, rfl, by decide,
    Eq.trans (b := envE1) (by decide +kernel) encrypt_envelope.symm, by decide, by decide,
    by decide, by decide, by decide⟩

theorem test_witness_Bit255OfTheEphemeralKeyIsIgnored : 60 ≤ envE1.length ∧ 60 = (envE1.take 60).length := by
  decide +kernel

theorem test_witness_MemWriteThenMemRead :
    (∃ b : Nat, b < 4 ∨ 4 + ping.length ≤ b) ∧ State.reset.buf.wf ∧ 0 < 1 :=
  ⟨⟨3, by decide⟩, by decide, by decide⟩

/-- Of CmdWriteIssuesTheCommand, OperandRegistersStoreAndReadBack and StatusFieldsAndWriteOneToClear. -/
theorem test_witness_register_writes :
    State.reset.busy = false ∧ { State.reset with busy := true }.busy = true ∧
    (2 : Word).getLsbD 1 = true ∧ (0xFFFFFFFD : Word).getLsbD 1 = false := by decide

theorem test_witness_ReservedOffsetsAndResultIgnoreWrites :
    (0x28 ≤ 0x28 ∧ 0x28 % 4 = 0) ∧ (0xFC ≤ 0xFC ∧ 0xFC % 4 = 0) := by decide

/-- Every clause at the edges of its offsets: the registers next to RESULT and the first and last reserved offsets. -/
theorem test_witness_WritesWhileBusyAreDropped :
    busTarget State.reset.config (reg32 0x00 (.write 0)) = .register 0x00 ∧
    busTarget State.reset.config (reg32 0x04 (.write 0)) = .register 0x04 ∧
    busTarget State.reset.config (reg32 0x08 (.write 0)) = .register 0x08 ∧
    busTarget State.reset.config (reg32 0x0C (.write 0)) = .register 0x0C ∧
    busTarget State.reset.config (reg32 0x24 (.write 0)) = .register 0x24 ∧
    busTarget State.reset.config (reg32 0x28 (.write 0)) = .register 0x28 ∧
    busTarget State.reset.config (reg32 0xFC (.write 0)) = .register 0xFC ∧
    busTarget State.reset.config (buf 0 .w8 (.write 0)) = .buffer 0 ∧
    busTarget State.reset.config (buf 0xFFC .w32 (.write 0)) = .buffer 0xFFC := by decide

/-- Of BufReadsWhileBusyReturnSomeValue and BufAccessesAreLittleEndian. -/
theorem test_witness_buffer_accesses :
    busTarget State.reset.config (buf 0xFFF .w8 .read) = .buffer 0xFFF ∧
    busTarget State.reset.config (buf 0xFFE .w16 (.write 0xABCD)) = .buffer 0xFFE ∧
    (buf 0xFFF .w8 .read).op = .read ∧ State.reset.busy = false := by decide

/-- The clauses of BusErrorsAreTheAccessesR76Forbids at the edges of both windows. -/
theorem test_witness_BusErrorsAreTheAccessesR76Forbids :
    State.reset.config.wellFormed ∧
    hostAccess { reg32 0xFC .read with width := .w16 } State.reset = .fault .busError ∧
    hostAccess (reg32 0x02 .read) State.reset = .fault .busError ∧
    hostAccess (buf 0xFFE .w32 .read) State.reset = .fault .busError ∧
    hostAccess (buf 0x1000 .w32 .read) State.reset = .refused .outsideWindows ∧
    hostAccess (reg32 0x100 .read) State.reset = .refused .outsideWindows ∧
    hostAccess (reg32 0xFC .read) State.reset = .next { State.reset with reply := .readData .w32 0 } :=
  ⟨by decide, rfl, rfl, rfl, rfl, rfl, rfl⟩

/-- Of OnlyHostAccessesStopAStep and of the second clause of EveryPendingCommandCompletes. -/
theorem test_witness_stops_and_safe_agendas :
    step { State.reset with agenda := [.host (reg32 0x02 .read)] } = .fault .busError ∧
    step { State.reset with agenda := [.host (reg32 0x100 .read)] } = .refused .outsideWindows ∧
    { State.reset with busy := true, agenda := [.host (reg32 0 .read), .reset] }.agendaSafe = true :=
  ⟨rfl, rfl, by decide⟩

/-- A command and an illegal word pending, each behind two host accesses and with an access behind the engine's turn;
and with nothing lined up. -/
theorem test_witness_EveryPendingCommandCompletes :
    (∀ w : Word, w = 0x20 ∨ w = 0x22 → ∀ turns : List Turn, turns = [] ∨
        turns = [.host (reg32 0x24 (.write 1)), .host (buf 0xFFF .w8 .read), .engine, .host (reg32 0x08 .read)] →
      { encryptState with busy := true, cmd := w, agenda := turns }.agendaSafe = true ∧
      ∀ turn ∈ turns, turn ≠ .reset) ∧
    decode 0x20 = .command .encrypt ∧ decode 0x22 = .illegal .unassignedOpcode := by
  refine ⟨?_, rfl, rfl⟩
  rintro w (rfl | rfl) turns (rfl | rfl) <;> exact ⟨by decide, by decide⟩

theorem test_witness_ResetRestoresTheResetValues :
    { encryptState with busy := true, agenda := [.reset, .engine] }.agenda = .reset :: [.engine] := by decide

/-- Of EveryStepKeepsTheInvariant and InvariantHoldsAtReset. -/
theorem test_witness_Inv :
    State.reset.Inv ∧ (∃ t, step { State.reset with agenda := [.host (buf 0xFFF .w8 (.write 7))] } = .next t) ∧
    { Config.vectors with bufSize := 64 }.wellFormed :=
  ⟨⟨by decide, by decide, by decide, rfl, by decide, by decide, by decide⟩, ⟨_, rfl⟩, by decide⟩

theorem test_witness_SecretsAreZeroInEveryReachableState :
    ∃ s : State, s.Reachable ∧ s.err ≠ 0x00 ∧ s.cmd = 0x10 := by
  have h0 := State.Reachable.start Config.vectors (by decide)
  have h1 := State.Reachable.inputs _ [.host (reg32 0 (.write 0x10)), .engine] [] h0
  have h2 := State.Reachable.next _ _ h1 rfl
  have h3 := State.Reachable.next _ _ h2 rfl
  exact ⟨_, h3, by decide, by decide⟩

/-- RNG_FAIL set and kept, set by a completion, and the two commands that find it set at their edges. -/
theorem test_witness_RngFailIsStickyUntilReset :
    (∃ s t : State, step s = .next t ∧ s.rngFail = true ∧ s.agenda.head? ≠ some .reset) ∧
    (∃ s t : State, step s = .next t ∧ s.rngFail = false ∧ t.rngFail = true) ∧
    (∃ s : State, s.rngFail = true ∧ 64 = s.dstCap.toNat ∧ s.dstAddr.toNat + 64 = s.config.bufSize) ∧
    (∃ s : State, s.rngFail = true ∧ s.keyLen.toNat = 32 ∧ s.srcLen.toNat + 60 = s.dstCap.toNat ∧
      s.srcAddr.toNat + s.srcLen.toNat ≤ s.config.bufSize ∧ s.keyAddr.toNat + 32 ≤ s.config.bufSize ∧
      s.dstAddr.toNat + (s.srcLen.toNat + 60) ≤ s.config.bufSize) ∧
    (∃ s t : State, exec .keygen s = .next t ∧ t.err = 0x06) :=
  ⟨⟨{ State.reset with rngFail := true }, _, rfl, by decide, by decide⟩,
    ⟨{ keygenState with busy := true, cmd := 0x10, entropy := [.fail] }, _, rfl, by decide, by decide⟩,
    ⟨{ keygenState with rngFail := true }, by decide⟩, ⟨{ encryptState with rngFail := true }, by decide⟩,
    ⟨{ keygenState with rngFail := true }, _, exec_after _ _, by decide⟩⟩

/-- HAZARD set by a dropped write, cleared by a STATUS write, cleared by a reset. -/
theorem test_witness_HazardRecordsDroppedWrites :
    (∃ s t : State, step s = .next t ∧ s.hazard = false ∧ t.hazard = true) ∧
    (∃ s t : State, step s = .next t ∧ s.hazard = true ∧ t.hazard = false ∧ s.agenda.head? = some .reset) ∧
    (∃ s t : State, step s = .next t ∧ s.hazard = true ∧ t.hazard = false ∧ s.agenda.head? ≠ some .reset) ∧
    (∃ s : State, s.busy = true ∧ busTarget s.config (buf 0xFFF .w8 (.write 1)) = .buffer 0xFFF ∧
      busTarget s.config (reg32 0x24 (.write 1)) = .register 0x24 ∧ (buf 0xFFF .w8 (.write 1)).op = .write 1) ∧
    (2 : Word).getLsbD 1 = true :=
  ⟨⟨{ State.reset with busy := true, agenda := [.host (reg32 0x24 (.write 1))] }, _, rfl, by decide, by decide⟩,
    ⟨{ State.reset with hazard := true, agenda := [.reset] }, _, rfl, by decide, by decide, by decide⟩,
    ⟨{ State.reset with hazard := true, agenda := [.host (reg32 0x04 (.write 2))] }, _, rfl, by decide, by decide,
      by decide⟩, ⟨{ State.reset with busy := true }, by decide⟩, by decide⟩

/-- BUSY set by a CMD write, cleared by a completion, and kept over a host access. -/
theorem test_witness_BusyFromCmdWriteToCompletion :
    (∃ s t : State, step s = .next t ∧ s.busy = false ∧ t.busy = true) ∧
    (∃ s t : State, step s = .next t ∧ s.busy = true ∧ t.busy = false) ∧
    (∃ s t : State, step s = .next t ∧ s.busy = true ∧ t.busy = true) :=
  ⟨⟨{ State.reset with agenda := [.host (reg32 0 (.write 0x21))] }, _, rfl, by decide, by decide⟩,
    ⟨{ State.reset with busy := true, cmd := 1 }, _, rfl, by decide, by decide⟩,
    ⟨{ State.reset with busy := true, agenda := [.host (reg32 0x14 (.write 1))] }, _, rfl, by decide, by decide⟩⟩

/-- Two states that agree on what DERIVE_PUBLIC reads and differ in everything else one can name quickly; and two that
meet the hypotheses for every command, and differ in CMD, HAZARD and a byte of BUF no command reads. -/
theorem test_witness_CommandsReadOnlyTheirInputs :
    (∃ s s' : State,
      s.config.bufSize = s'.config.bufSize ∧ s.config.hkdfInfo = s'.config.hkdfInfo ∧ s.crcState = s'.crcState ∧
      s.rngFail = s'.rngFail ∧ s.entropy = s'.entropy ∧ s.draws = s'.draws ∧ s.keyAddr = s'.keyAddr ∧
      s.keyLen = s'.keyLen ∧ s.memRead s.keyAddr.toNat 32 = s'.memRead s'.keyAddr.toNat 32 ∧
      s.dstAddr = s'.dstAddr ∧ s.dstCap = s'.dstCap ∧ s.srcAddr ≠ s'.srcAddr ∧ s.cmd ≠ s'.cmd ∧
      s.hazard ≠ s'.hazard) ∧
    (∀ i : Instr, ∃ s s' t t' : State,
      s.config = s'.config ∧ s.crcState = s'.crcState ∧ s.rngFail = s'.rngFail ∧ s.entropy = s'.entropy ∧
      s.draws = s'.draws ∧ s.srcAddr = s'.srcAddr ∧ s.srcLen = s'.srcLen ∧ s.keyAddr = s'.keyAddr ∧
      s.keyLen = s'.keyLen ∧ s.dstAddr = s'.dstAddr ∧ s.dstCap = s'.dstCap ∧
      s.memRead s.srcAddr.toNat s.srcLen.toNat = s'.memRead s'.srcAddr.toNat s'.srcLen.toNat ∧
      s.memRead s.keyAddr.toNat 32 = s'.memRead s'.keyAddr.toNat 32 ∧
      s.cmd ≠ s'.cmd ∧ s.hazard ≠ s'.hazard ∧ s.buf ≠ s'.buf ∧ exec i s = .next t ∧ exec i s' = .next t') := by
  refine ⟨⟨deriveState, { deriveState with
      srcAddr := 5, cmd := 9, hazard := true, buf := cells [(0x100, keyA), (0x200, ping)] }, by decide +kernel⟩, ?_⟩
  intro i
  refine ⟨encryptState, { encryptState with
      cmd := 9, hazard := true, buf := cells [(0, ping), (0x160, pubB), (0x300, [7])] }, _, _, rfl, rfl, rfl, rfl, rfl,
    rfl, rfl, rfl, rfl, rfl, rfl, by decide +kernel, by decide +kernel, by decide, by decide, by decide +kernel,
    exec_after _ _, exec_after _ _⟩

end Sys2Proof.Tests
end

section
/-! PROOFS. What a host access does to the registers, to BUSY and to HAZARD, said once: which offsets are registers, what
an access at one does, and which accesses change BUSY or HAZARD. -/

namespace Sys2Proof.Machine

/-! ### Offsets of the register window (R33, R43) -/

@[simp] theorem regAt_regOffset (r : Reg) : regAt (regOffset r) = some r := by cases r <;> rfl

theorem regAt_eq_some {off : Nat} {r : Reg} (h : regAt off = some r) : off = regOffset r := by
  have hr := List.find?_some h
  exact (beq_iff_eq.1 hr).symm

theorem regAt_reserved {off : Nat} (h : 0x28 ≤ off) : regAt off = none := by
  cases hr : regAt off with
  | none => rfl
  | some r =>
    have hoff := regAt_eq_some hr
    have hle : regOffset r ≤ 0x24 := by cases r <;> decide
    omega

/-! ### Accesses to the register window (R76) -/

/-- A legal register access is a 32-bit one at its offset from REG_BASE. -/
theorem busTarget_eq_register {c : Config} {a : BusAccess} {off : Nat} (h : busTarget c a = .register off) :
    a.addr = c.regBase + off ∧ a.width = .w32 := by
  unfold busTarget at h
  split_ifs at h with hw ha
  injection h with h
  exact ⟨by omega, ha.1⟩

theorem busTarget_register (c : Config) {off : Nat} (op : BusOp) (hlt : off < 256) (h4 : off % 4 = 0) :
    busTarget c { addr := c.regBase + off, width := .w32, op := op } = .register off := by
  simp [busTarget, regWindowSize, hlt, h4]

theorem hostAccess_read_register (s : State) {off : Nat} (hlt : off < 256) (h4 : off % 4 = 0) :
    hostAccess { addr := s.config.regBase + off, width := .w32, op := .read } s = .next (s.busReadReg off) := by
  simp only [hostAccess, busTarget_register s.config .read hlt h4]

theorem hostAccess_write_register (s : State) {off : Nat} (v : Word) (hlt : off < 256) (h4 : off % 4 = 0) :
    hostAccess { addr := s.config.regBase + off, width := .w32, op := .write v } s = .next (s.busWriteReg off v) := by
  simp only [hostAccess, busTarget_register s.config (.write v) hlt h4]

/-! ### What a register access does, by the register at its offset -/

theorem busReadReg_eq (s : State) (r : Reg) :
    s.busReadReg (regOffset r) = { s with reply := .readData .w32 (s.readReg r) } := by
  simp only [State.busReadReg, regAt_regOffset]

theorem busReadReg_reserved (s : State) {off : Nat} (h : 0x28 ≤ off) :
    s.busReadReg off = { s with reply := .readData .w32 0 } := by
  simp only [State.busReadReg, regAt_reserved h]

theorem busWriteReg_eq (s : State) (r : Reg) (v : Word) :
    s.busWriteReg (regOffset r) v = { s.writeReg r v with reply := .writeTaken } := by
  simp only [State.busWriteReg, regAt_regOffset]

theorem busWriteReg_reserved (s : State) {off : Nat} (h : 0x28 ≤ off) (v : Word) :
    s.busWriteReg off v = { s with reply := .writeTaken } := by
  simp only [State.busWriteReg, regAt_reserved h]

theorem busWriteReg_of_none (s : State) {off : Nat} (h : regAt off = none) (v : Word) :
    s.busWriteReg off v = { s with reply := .writeTaken } := by
  simp only [State.busWriteReg, h]

@[simp] theorem writeReg_status (s : State) (v : Word) : s.writeReg .status v = s.writeStatus v := by
  cases hb : s.busy <;> simp [State.writeReg, hb, State.writeRegBusy, State.writeRegIdle]

@[simp] theorem writeReg_result (s : State) (v : Word) : s.writeReg .result v = s := by
  cases hb : s.busy <;> simp [State.writeReg, hb, State.writeRegBusy, State.writeRegIdle]

theorem hostAccess_read_reg (s : State) (r : Reg) :
    hostAccess { addr := s.config.regBase + regOffset r, width := .w32, op := .read } s =
      .next { s with reply := .readData .w32 (s.readReg r) } := by
  rw [hostAccess_read_register s (by cases r <;> decide) (by cases r <;> decide), busReadReg_eq]

theorem hostAccess_write_reg (s : State) (r : Reg) (v : Word) :
    hostAccess { addr := s.config.regBase + regOffset r, width := .w32, op := .write v } s =
      .next { s.writeReg r v with reply := .writeTaken } := by
  rw [hostAccess_write_register s v (by cases r <;> decide) (by cases r <;> decide), busWriteReg_eq]

/-- A STATUS write, busy or not (R35). -/
theorem hostAccess_write_status (s : State) (v : Word) :
    hostAccess { addr := s.config.regBase + 0x04, width := .w32, op := .write v } s =
      .next { s with hazard := s.hazard && !v.getLsbD 1, reply := .writeTaken } := by
  have h := hostAccess_write_reg s .status v
  rwa [writeReg_status] at h

/-! ### STATUS (R35) -/

/-- The layout of STATUS, from bit 31 down to bit 0: checked for each setting of the three flags and every ERR byte. -/
theorem statusWord_layout (s : State) :
    s.statusWord =
      0#16 ++ s.err ++ 0#5 ++ BitVec.ofBool s.rngFail ++ BitVec.ofBool s.hazard ++ BitVec.ofBool s.busy := by
  unfold State.statusWord
  cases s.rngFail <;> cases s.hazard <;> cases s.busy <;> (generalize s.err = e; revert e; decide)

/-- STATUS bit by bit: BUSY, HAZARD, RNG_FAIL, five zeros, ERR (which has no bit beyond its eighth), zeros. -/
theorem statusWord_getLsbD (s : State) (i : Nat) :
    s.statusWord.getLsbD i =
      if i = 0 then s.busy else if i = 1 then s.hazard else if i = 2 then s.rngFail
      else (decide (8 ≤ i) && s.err.getLsbD (i - 8)) := by
  rw [statusWord_layout]
  match i with
  | 0 => simp only [BitVec.getLsbD_append]; simp
  | 1 => simp only [BitVec.getLsbD_append]; simp
  | 2 => simp only [BitVec.getLsbD_append]; simp
  | i + 3 =>
    have herr : s.err.getLsbD (i - 5) = (decide (i - 5 < 8) && s.err.getLsbD (i - 5)) := by
      by_cases hi : i - 5 < 8
      · simp [hi]
      · simp [hi, BitVec.getLsbD_of_ge s.err (i - 5) (by omega)]
    simp only [BitVec.getLsbD_append]
    simp [← herr, ← decide_not]

theorem statusWord_err (s : State) : s.statusWord.extractLsb' 8 8 = s.err := by
  ext i hi
  rw [BitVec.getElem_extractLsb', statusWord_getLsbD, if_neg (by omega), if_neg (by omega), if_neg (by omega)]
  simp [hi]

theorem statusWord_reserved_low (s : State) : s.statusWord.extractLsb' 3 5 = 0 := by
  ext i hi
  rw [BitVec.getElem_extractLsb', statusWord_getLsbD, if_neg (by omega), if_neg (by omega), if_neg (by omega)]
  simp [show ¬8 ≤ 3 + i by omega]

theorem statusWord_reserved_high (s : State) : s.statusWord.extractLsb' 16 16 = 0 := by
  ext i hi
  rw [BitVec.getElem_extractLsb', statusWord_getLsbD, if_neg (by omega), if_neg (by omega), if_neg (by omega),
    BitVec.getLsbD_of_ge s.err _ (by omega)]
  simp

theorem statusWord_resetWith (c : Config) : (State.resetWith c).statusWord = 0x00000000 := by
  simp [State.statusWord, State.resetWith]

/-! ### BUSY: only a CMD write sets it (R34, R36) -/

theorem writeReg_busy (s : State) (r : Reg) (v : Word) : (s.writeReg r v).busy = (s.busy || r == .cmd) := by
  cases hb : s.busy <;> cases r <;> simp [State.writeReg, State.writeRegBusy, State.writeRegIdle, hb]

theorem writeReg_cmd_idle {s : State} (hb : s.busy = false) (v : Word) : s.writeReg .cmd v = s.issue v := by
  simp [State.writeReg, State.writeRegIdle, hb]

@[simp] theorem busReadBuf_busy (s : State) (off : Nat) (w : Width) : (s.busReadBuf off w).busy = s.busy := by
  unfold State.busReadBuf; split_ifs <;> rfl

@[simp] theorem busReadBuf_hazard (s : State) (off : Nat) (w : Width) : (s.busReadBuf off w).hazard = s.hazard := by
  unfold State.busReadBuf; split_ifs <;> rfl

@[simp] theorem busWriteBuf_busy (s : State) (off : Nat) (w : Width) (v : Word) :
    (s.busWriteBuf off w v).busy = s.busy := by
  unfold State.busWriteBuf; split_ifs <;> rfl

@[simp] theorem busWriteBuf_hazard (s : State) (off : Nat) (w : Width) (v : Word) :
    (s.busWriteBuf off w v).hazard = (s.hazard || s.busy) := by
  cases hb : s.busy <;> simp [State.busWriteBuf, hb]

/-- A host write at an offset of the register window is a write to a register, or changes nothing (R43). -/
theorem busWriteReg_cases (s : State) (off : Nat) (v : Word) :
    (∃ r, off = regOffset r ∧ s.busWriteReg off v = { s.writeReg r v with reply := .writeTaken }) ∨
    s.busWriteReg off v = { s with reply := .writeTaken } := by
  cases h : regAt off with
  | none => exact .inr (busWriteReg_of_none s h v)
  | some r =>
    obtain rfl := regAt_eq_some h
    exact .inl ⟨r, rfl, busWriteReg_eq s r v⟩

/-- A write with a register target is the 32-bit write at that offset from REG_BASE. -/
theorem eq_register_write {c : Config} {a : BusAccess} {off : Nat} {v : Word} (ht : busTarget c a = .register off)
    (ho : a.op = .write v) : a = { addr := c.regBase + off, width := .w32, op := .write v } := by
  obtain ⟨haddr, hwidth⟩ := busTarget_eq_register ht
  cases a
  simp_all

/-- A host access leaves BUSY alone, or is an accepted CMD write. -/
theorem hostAccess_busy_cases {a : BusAccess} {s t : State} (h : hostAccess a s = .next t) :
    t.busy = s.busy ∨
    ∃ w, a = { addr := s.config.regBase, width := .w32, op := .write w } ∧ (s.busy = false → t.cmd = w) := by
  rcases hostAccess_next h with ⟨off, -, -, rfl⟩ | ⟨off, v, ht, ho, rfl⟩ | ⟨off, -, -, rfl⟩ | ⟨off, v, -, -, rfl⟩
  · exact .inl rfl
  · rcases busWriteReg_cases s off v with ⟨r, rfl, hw⟩ | hw
    · by_cases hr : r = .cmd
      · subst hr
        refine .inr ⟨v, eq_register_write ht ho, fun hb => ?_⟩
        rw [hw, writeReg_cmd_idle hb, issue_cmd]
      · left
        simp [hw, writeReg_busy, hr]
    · left
      rw [hw]
  · exact .inl (busReadBuf_busy s off a.width)
  · exact .inl (busWriteBuf_busy s off a.width v)

/-! ### HAZARD: only a dropped write sets it, only STATUS clears it (R37, R346) -/

/-- Where a host write is dropped while BUSY = 1: BUF, and every register but STATUS and RESULT. -/
def DropsWhileBusy (c : Config) (a : BusAccess) : Prop :=
  (∃ off, busTarget c a = .buffer off) ∨
  ∃ off ∈ [0x00, 0x0C, 0x10, 0x14, 0x18, 0x1C, 0x20, 0x24], busTarget c a = .register off

theorem regOffset_mem_dropped_iff (r : Reg) :
    regOffset r ∈ [0x00, 0x0C, 0x10, 0x14, 0x18, 0x1C, 0x20, 0x24] ↔ r ≠ .status ∧ r ≠ .result := by
  cases r <;> decide

theorem regAt_isSome_of_mem_dropped :
    ∀ off ∈ [0x00, 0x0C, 0x10, 0x14, 0x18, 0x1C, 0x20, 0x24], (regAt off).isSome = true := by decide

theorem writeReg_eq_setHazard {s : State} (hb : s.busy = true) {r : Reg} (hs : r ≠ .status) (hr : r ≠ .result)
    (v : Word) : s.writeReg r v = s.setHazard := by
  rw [State.writeReg, if_pos hb]
  cases r with
  | status => exact absurd rfl hs
  | result => exact absurd rfl hr
  | _ => rfl

/-- A dropped write (R346). -/
theorem hostAccess_dropped {s : State} {a : BusAccess} {v : Word} (hb : s.busy = true) (ho : a.op = .write v)
    (hd : DropsWhileBusy s.config a) : hostAccess a s = .next { s with hazard := true, reply := .writeTaken } := by
  rcases hd with ⟨off, ht⟩ | ⟨off, hoff, ht⟩
  · simp only [hostAccess, ht, ho, State.busWriteBuf, if_pos hb, State.setHazard]
  · obtain ⟨r, hr⟩ := Option.isSome_iff_exists.1 (regAt_isSome_of_mem_dropped off hoff)
    obtain rfl := regAt_eq_some hr
    obtain ⟨hs, hres⟩ := (regOffset_mem_dropped_iff r).1 hoff
    simp only [hostAccess, ht, ho, busWriteReg_eq, writeReg_eq_setHazard hb hs hres, State.setHazard]

theorem writeReg_idle_hazard {s : State} (hb : s.busy = false) {r : Reg} (hs : r ≠ .status) (v : Word) :
    (s.writeReg r v).hazard = s.hazard := by
  rw [State.writeReg, if_neg (by simp [hb])]
  cases r with
  | status => exact absurd rfl hs
  | _ => rfl

/-- A host access leaves HAZARD alone, or is a dropped write and sets it, or is a STATUS write. -/
theorem hostAccess_hazard_cases {a : BusAccess} {s t : State} (h : hostAccess a s = .next t) :
    t.hazard = s.hazard ∨
    (s.busy = true ∧ t.hazard = true ∧ ∃ v, a.op = .write v ∧ DropsWhileBusy s.config a) ∨
    ∃ v, a = { addr := s.config.regBase + 0x04, width := .w32, op := .write v } ∧
      t.hazard = (s.hazard && !v.getLsbD 1) := by
  rcases hostAccess_next h with ⟨off, -, -, rfl⟩ | ⟨off, v, ht, ho, rfl⟩ | ⟨off, -, -, rfl⟩ | ⟨off, v, ht, ho, rfl⟩
  · exact .inl rfl
  · rcases busWriteReg_cases s off v with ⟨r, rfl, hw⟩ | hw
    · rw [hw]
      by_cases hs : r = .status
      · subst hs
        exact .inr (.inr ⟨v, eq_register_write ht ho, by rw [writeReg_status, writeStatus_hazard]⟩)
      · by_cases hr : r = .result
        · subst hr
          exact .inl (by rw [writeReg_result])
        · cases hb : s.busy with
          | true =>
            refine .inr (.inl ⟨rfl, by rw [writeReg_eq_setHazard hb hs hr, setHazard_hazard], v, ho, .inr ?_⟩)
            exact ⟨_, (regOffset_mem_dropped_iff r).2 ⟨hs, hr⟩, ht⟩
          | false => exact .inl (writeReg_idle_hazard hb hs v)
    · exact .inl (by rw [hw])
  · exact .inl (busReadBuf_hazard s off a.width)
  · cases hb : s.busy with
    | true => exact .inr (.inl ⟨rfl, by simp [hb], v, ho, .inl ⟨off, ht⟩⟩)
    | false => exact .inl (by simp [hb])

end Sys2Proof.Machine
end

section
/-! PROOFS. What a completion does to BUSY, HAZARD and RNG_FAIL, and what a command's body reads of them. -/

namespace Sys2Proof.Machine

/-! ### The completion step (R131) -/

theorem eq_complete_of_exec {i : Instr} {s t : State} (h : exec i s = .next t) : t = s.complete (execBody i s) := by
  rw [exec_eq] at h
  injection h with h
  exact h.symm

@[simp] theorem complete_busy (s : State) (r : ExecResult) : (s.complete r).busy = false := rfl

@[simp] theorem complete_hazard (s : State) (r : ExecResult) : (s.complete r).hazard = s.hazard := by
  obtain ⟨_ | _, w⟩ := r <;> rfl

@[simp] theorem complete_rngFail (s : State) (r : ExecResult) :
    (s.complete r).rngFail = (s.rngFail || r.work.rngFailed) := by
  obtain ⟨_ | _, w⟩ := r <;> rfl

theorem complete_with_hazard (s : State) (r : ExecResult) (b : Bool) :
    { s with hazard := b }.complete r = { s.complete r with hazard := b } := by
  obtain ⟨_ | _, w⟩ := r <;> rfl

theorem ErrorCode.code_eq_randomSourceFailure {e : ErrorCode} (h : e.code = 0x06) : e = .randomSourceFailure := by
  revert h
  cases e <;> decide

/-! ### Reset (R340) -/

@[simp] theorem resetStep_busy (s : State) : s.resetStep.busy = false := rfl
@[simp] theorem resetStep_hazard (s : State) : s.resetStep.hazard = false := rfl
@[simp] theorem resetStep_rngFail (s : State) : s.resetStep.rngFail = false := rfl

/-- The first turn of the agenda is a reset: the step is that reset. -/
theorem step_of_reset {s : State} (h : s.agenda.head? = some .reset) : step s = .next s.turnState.resetStep := by
  obtain ⟨rest, hr⟩ := List.head?_eq_some_iff.1 h
  simp only [step, nextTurn, hr, takeTurn, State.turnState, List.tail_cons]

/-- A step leaves HAZARD alone, or is a dropped write, a STATUS write or a reset (R37). -/
theorem step_hazard_cases {s t : State} (h : step s = .next t) :
    t.hazard = s.hazard ∨
    (∃ a, s.agenda.head? = some (.host a) ∧ s.busy = true ∧ t.hazard = true ∧
      ∃ v, a.op = .write v ∧ DropsWhileBusy s.config a) ∨
    (∃ v, s.agenda.head? = some (.host { addr := s.config.regBase + 0x04, width := .w32, op := .write v }) ∧
      t.hazard = (s.hazard && !v.getLsbD 1)) ∨
    (s.agenda.head? = some .reset ∧ t.hazard = false) := by
  rcases step_cases h with ⟨-, -, ⟨i, -, rfl⟩ | ⟨why, -, rfl⟩⟩ | ⟨-, -, rfl⟩ | ⟨a, hturn, ha⟩ | ⟨hturn, rfl⟩
  · exact .inl (complete_hazard _ _)
  · exact .inl (complete_hazard _ _)
  · exact .inl rfl
  · rcases hostAccess_hazard_cases ha with hsame | hdrop | ⟨v, rfl, hclear⟩
    · exact .inl hsame
    · exact .inr (.inl ⟨a, hturn, hdrop⟩)
    · exact .inr (.inr (.inl ⟨v, hturn, hclear⟩))
  · exact .inr (.inr (.inr ⟨hturn, rfl⟩))

/-! ### No command reads HAZARD (R37) -/

theorem memRead_with_hazard (s : State) (b : Bool) (a n : Nat) :
    { s with hazard := b }.memRead a n = s.memRead a n := State.memRead_congr fun _ _ _ => rfl

theorem srcBytes_with_hazard (s : State) (b : Bool) : { s with hazard := b }.srcBytes = s.srcBytes :=
  memRead_with_hazard s b s.srcAt s.srcN

theorem keyBytes_with_hazard (s : State) (b : Bool) : { s with hazard := b }.keyBytes = s.keyBytes :=
  memRead_with_hazard s b s.keyAt 32

theorem execBody_with_hazard (i : Instr) (s : State) (b : Bool) :
    execBody i { s with hazard := b } = execBody i s := by
  cases i with
  | crcInit => rfl
  | crcFinalize => rfl
  | keygen => rfl
  | crcUpdate => simp only [execBody, crcUpdateBody, srcBytes_with_hazard]; rfl
  | crcCompute => simp only [execBody, crcComputeBody, srcBytes_with_hazard]; rfl
  | derivePublic => simp only [execBody, derivePublicBody, keyBytes_with_hazard]; rfl
  | encrypt => simp only [execBody, encryptBody, srcBytes_with_hazard, keyBytes_with_hazard]; rfl
  | decrypt => simp only [execBody, decryptBody, srcBytes_with_hazard, keyBytes_with_hazard]; rfl

/-! ### Which commands a failing draw ends (R38, R137) -/

theorem execBody_of_prologue_some {i : Instr} {s : State} {e : ErrorCode} (h : prologue i s = some e) :
    execBody i s = .raise e s.work := by
  cases i <;> exact afterPrologue_some h _

theorem generateKeyPair_rngFailed {b : Bool} {w : Work} (hw : w.rngFailed = false)
    (h : (generateKeyPair b w).2.rngFailed = true) : w.nextAnswer 32 = none := by
  rcases generateKeyPair_cases b w with ⟨-, hg⟩ | ⟨-, hn, -⟩ | ⟨-, raw, -, -, hg⟩
  · simp [hg, hw] at h
  · exact hn
  · simp [hg, Work.advance, Work.withEphSk, hw] at h

theorem sealEnvelope_rngFailed {info : Bytes} {b : Bool} {w : Work} {p pk : Bytes} (hw : w.rngFailed = false)
    (h : (sealEnvelope info b w p pk).2.rngFailed = true) :
    w.nextAnswer 32 = none ∨ w.advance.nextAnswer 12 = none := by
  rcases sealEnvelope_cases info b w p pk with ⟨-, hg⟩ | ⟨-, hn, -⟩ | ⟨-, raw, -, -, hpoint | hdraw | hok⟩
  · simp [hg, hw] at h
  · exact .inl hn
  · obtain ⟨-, w', hg, -, -, hf⟩ := hpoint
    simp [hg, hf, hw] at h
  · exact .inr hdraw.2.1
  · obtain ⟨-, nonce, -, -, w', hg, -, -, hf⟩ := hok
    simp [hg, hf, hw] at h

theorem keygenBody_work {s : State} (hp : prologue .keygen s = none) :
    (keygenBody s).work = (generateKeyPair s.rngFail s.work).2 := by
  rw [keygenBody, afterPrologue_none hp]
  split <;> next hg => rw [hg]; rfl

theorem encryptBody_work {s : State} (hp : prologue .encrypt s = none) :
    (encryptBody s).work = (sealEnvelope s.config.hkdfInfo s.rngFail s.work s.srcBytes s.keyBytes).2 := by
  rw [encryptBody, afterPrologue_none hp]
  split <;> next hg => rw [hg]; rfl

theorem decryptBody_work {s : State} (hp : prologue .decrypt s = none) :
    (decryptBody s).work = (openEnvelope s.config.hkdfInfo s.work s.srcBytes s.keyBytes).2 := by
  rw [decryptBody, afterPrologue_none hp]
  split <;> next hg => rw [hg]; rfl

/-- DECRYPT makes no draw. -/
theorem openEnvelope_rngFailed (info : Bytes) (w : Work) (e sk : Bytes) :
    (openEnvelope info w e sk).2.rngFailed = w.rngFailed := by
  obtain ⟨w', -, -, hf, ⟨-, hg⟩ | ⟨-, -, hg⟩ | ⟨-, -, -, hg⟩ | ⟨-, -, -, hg⟩⟩ := openEnvelope_cases info w e sk <;>
    rw [hg, hf]

/-- Only KEYGEN and ENCRYPT draw, so only they can meet a failing draw: the first one of 32 bytes, or ENCRYPT's second of
12 (R193, R272). -/
theorem execBody_rngFailed {i : Instr} {s : State} (h : (execBody i s).work.rngFailed = true) :
    (i = .keygen ∨ i = .encrypt) ∧ (s.work.nextAnswer 32 = none ∨ s.work.advance.nextAnswer 12 = none) := by
  cases hp : prologue i s with
  | some e =>
    rw [execBody_of_prologue_some hp] at h
    cases h
  | none =>
    cases i with
    | keygen => exact ⟨.inl rfl, .inl (generateKeyPair_rngFailed rfl (keygenBody_work hp ▸ h))⟩
    | encrypt => exact ⟨.inr rfl, sealEnvelope_rngFailed rfl (encryptBody_work hp ▸ h)⟩
    | decrypt =>
      rw [execBody, decryptBody_work hp, openEnvelope_rngFailed] at h
      cases h
    | crcInit | crcUpdate | crcFinalize | crcCompute | derivePublic =>
      simp only [execBody, crcInitBody, crcUpdateBody, crcFinalizeBody, crcComputeBody, derivePublicBody,
        afterPrologue_none hp] at h
      cases h

/-- A command ends with RandomSourceFailure whenever a draw failed. -/
theorem complete_err_of_rngFailed {i : Instr} {s : State} (h : (execBody i s).work.rngFailed = true) :
    (s.complete (execBody i s)).err = 0x06 := by
  rcases execBody_cases i s with ⟨e, w, hb, he, -⟩ | ⟨ws, res, crc, w, hb, hf, -⟩
  · rw [hb] at h ⊢
    obtain rfl := he h
    rfl
  · rw [hb] at h
    cases hf.symm.trans h

/-- A command that ends with RandomSourceFailure leaves RNG_FAIL set. -/
theorem complete_rngFail_of_err {i : Instr} {s : State} (h : (s.complete (execBody i s)).err = 0x06) :
    (s.complete (execBody i s)).rngFail = true := by
  rcases execBody_cases i s with ⟨e, w, hb, -, he⟩ | ⟨ws, res, crc, w, hb, -⟩
  · rw [hb] at h ⊢
    rcases he (ErrorCode.code_eq_randomSourceFailure h) with hs | hw
    · simp [hs]
    · simpa using .inr hw
  · rw [hb] at h
    cases h

/-- A step leaves RNG_FAIL alone, or completes a command in which a draw failed, or is a reset (R38). -/
theorem step_rngFail_cases {s t : State} (h : step s = .next t) :
    t.rngFail = s.rngFail ∨
    (∃ i, s.busy = true ∧ decode s.cmd = .command i ∧ t = s.turnState.complete (execBody i s.turnState) ∧
      (execBody i s.turnState).work.rngFailed = true) ∨
    (s.agenda.head? = some .reset ∧ t.rngFail = false) := by
  rcases step_cases h with ⟨-, hb, ⟨i, hi, rfl⟩ | ⟨why, -, rfl⟩⟩ | ⟨-, -, rfl⟩ | ⟨a, -, ha⟩ | ⟨hturn, rfl⟩
  · cases hf : (execBody i s.turnState).work.rngFailed with
    | true => exact .inr (.inl ⟨i, hb, hi, rfl, hf⟩)
    | false => exact .inl (by rw [complete_rngFail, hf, Bool.or_false]; rfl)
  · exact .inl (by rw [completeIllegal_eq]; rfl)
  · exact .inl rfl
  · obtain ⟨-, hrng, -⟩ := hostAccess_frame ha
    exact .inl hrng
  · exact .inr (.inr ⟨hturn, rfl⟩)

theorem execBody_keygen_rngFail {s : State} (hr : s.rngFail = true) (hp : prologue .keygen s = none) :
    execBody .keygen s = .raise .randomSourceFailure s.work := by
  rw [execBody, keygenBody, afterPrologue_none hp, hr]
  rfl

theorem execBody_encrypt_rngFail {s : State} (hr : s.rngFail = true) (hp : prologue .encrypt s = none) :
    execBody .encrypt s = .raise .randomSourceFailure s.work := by
  rw [execBody, encryptBody, afterPrologue_none hp, hr]
  rfl

/-- A command that fails without having drawn: nothing changes but what R312 names. -/
theorem complete_raise_work (s : State) (e : ErrorCode) :
    s.complete (.raise e s.work) =
      { s with result := 0x00000000, err := e.code, busy := false, secrets := Secrets.zero } := by
  rw [complete_raise]
  simp [State.work]

end Sys2Proof.Machine
end

section
/-! PROOFS. The statements on the registers and flags of the block (10_state.md). -/

namespace Sys2Proof.Proofs

open Sys2Proof Sys2Proof.Machine

/-- Settles O51: `State.resetWith` is the record of R48. -/
theorem stateAfterResetHoldsR48 : Obligations.StateAfterResetHoldsR48 :=
  ⟨⟨Config.vectors, rfl⟩, fun _ => ⟨rfl, rfl, rfl, rfl, rfl, rfl, rfl, rfl, rfl, rfl, rfl, rfl, rfl, rfl⟩⟩

/-- Settles O43: the fields are read off the layout of STATUS, and a write is the same busy or not. -/
theorem statusFieldsAndWriteOneToClear : Obligations.StatusFieldsAndWriteOneToClear := by
  refine ⟨fun s => ⟨hostAccess_read_reg s .status, statusWord_getLsbD s 0, statusWord_getLsbD s 1,
    statusWord_getLsbD s 2, statusWord_reserved_low s, statusWord_err s, statusWord_reserved_high s⟩,
    statusWord_resetWith, fun s v => ⟨fun hv => ?_, fun hv => ?_⟩⟩
  · rw [hostAccess_write_status, hv, Bool.not_true, Bool.and_false]
  · rw [hostAccess_write_status, hv, Bool.not_false, Bool.and_true]

/-- Settles O44: no register stands at a reserved offset, and `writeReg` ignores a write to RESULT. -/
theorem reservedOffsetsAndResultIgnoreWrites : Obligations.ReservedOffsetsAndResultIgnoreWrites := by
  refine fun s => ⟨fun off hlo hhi h4 => ⟨?_, fun v => ?_⟩, hostAccess_read_reg s .result, fun v => ?_⟩
  · rw [hostAccess_read_register s (by omega) h4, busReadReg_reserved s hlo]
  · rw [hostAccess_write_register s v (by omega) h4, busWriteReg_reserved s hlo]
  · have h := hostAccess_write_reg s .result v
    rwa [writeReg_result] at h

/-- Settles O57, by the four things a step can do. -/
theorem busyFromCmdWriteToCompletion : Obligations.BusyFromCmdWriteToCompletion := by
  intro s t h
  rcases step_cases h with ⟨hturn, hb, ⟨i, -, rfl⟩ | ⟨why, -, rfl⟩⟩ | ⟨hturn, hb, rfl⟩ | ⟨a, hturn, ha⟩ | ⟨hturn, rfl⟩
  · exact ⟨by simp [hb], fun _ _ => hturn.imp_right .inl, by simp⟩
  · exact ⟨by simp [hb], fun _ _ => hturn.imp_right .inl, by simp [State.completeIllegal]⟩
  · exact ⟨by simp [State.turnState, hb], fun _ _ => hturn.imp_right .inl, by simp [hb]⟩
  · have hkeep : s.busy = true → t = { s.turnState with
        hazard := t.hazard, reply := t.reply, busyReads := t.busyReads } := fun hb => hostAccess_busy hb ha
    refine ⟨fun hb ht => ?_, fun hb ht => ?_, fun hb _ => ?_⟩
    · rcases hostAccess_busy_cases ha with hsame | ⟨w, rfl, hcmd⟩
      · exact absurd (hsame.symm.trans ht) (by simp [State.turnState, hb])
      · exact ⟨w, hturn, hcmd hb⟩
    · rw [hkeep hb] at ht
      exact absurd (hb.symm.trans ht) (by decide)
    · rw [hkeep hb]
      exact ⟨rfl, rfl, rfl, rfl, rfl, rfl, rfl, rfl, rfl⟩
  · exact ⟨by simp, fun _ _ => .inr (.inr hturn), by simp⟩

/-- Settles O56: a dropped write, a STATUS write, a reset, and nothing else, touch HAZARD; and no command's body reads
it. -/
theorem hazardRecordsDroppedWrites : Obligations.HazardRecordsDroppedWrites := by
  refine ⟨fun s a v hb ho hd => hostAccess_dropped hb ho hd, fun s t h hs ht => ?_, fun s v hv => ?_,
    fun s hreset => ⟨_, step_of_reset hreset, resetStep_hazard _⟩, fun s t h hs ht => ?_, fun i s t b h => ?_⟩
  · rcases step_hazard_cases h with hsame | ⟨a, hturn, hb, -, v, ho, hd⟩ | ⟨v, -, hclear⟩ | ⟨-, hreset⟩
    · simp [hsame, hs] at ht
    · exact ⟨hb, a, v, hturn, ho, hd⟩
    · simp [hclear, hs] at ht
    · simp [hreset] at ht
  · rw [hostAccess_write_status, hv, Bool.not_true, Bool.and_false]
  · rcases step_hazard_cases h with hsame | ⟨a, -, -, hset, -⟩ | ⟨v, hturn, hclear⟩ | ⟨hturn, -⟩
    · simp [hsame, hs] at ht
    · simp [hset] at ht
    · exact .inr ⟨v, by simpa [hclear, hs] using ht, hturn⟩
    · exact .inl hturn
  · obtain rfl := eq_complete_of_exec h
    exact ⟨complete_hazard s _, by rw [exec_eq, execBody_with_hazard, complete_with_hazard]⟩

/-- Settles O55: what a step does to RNG_FAIL, and the two commands that draw. -/
theorem rngFailIsStickyUntilReset : Obligations.RngFailIsStickyUntilReset := by
  refine ⟨fun s t h hs hturn => ?_, fun s t h hs ht => ?_, fun i s t h herr => ?_, fun s hr => ⟨?_, ?_⟩⟩
  · rcases step_rngFail_cases h with hsame | ⟨i, -, -, rfl, hf⟩ | ⟨hreset, -⟩
    · exact hsame.trans hs
    · simp [hf]
    · exact absurd hreset hturn
  · rcases step_rngFail_cases h with hsame | ⟨i, hb, hi, rfl, hf⟩ | ⟨-, hreset⟩
    · simp [hsame, hs] at ht
    · obtain ⟨hcmd, hanswer⟩ := execBody_rngFailed hf
      refine ⟨hb, ?_, complete_err_of_rngFailed hf, hanswer⟩
      rcases hcmd with rfl | rfl
      · exact .inl hi
      · exact .inr hi
    · simp [hreset] at ht
  · obtain rfl := eq_complete_of_exec h
    exact complete_rngFail_of_err herr
  · intro hcap hdst
    have hp : prologue .keygen s = none := by
      rw [prologue_keygen, if_neg (by omega), if_neg (by omega)]
    rw [exec_eq, execBody_keygen_rngFail hr hp, complete_raise_work]
    rfl
  · intro hlen hcap hsrc hkey hdst
    have hp : prologue .encrypt s = none := by
      rw [prologue_encrypt, if_neg (by omega), if_neg (by omega), if_neg (by omega), if_neg (by omega),
        if_neg (by omega)]
    rw [exec_eq, execBody_encrypt_rngFail hr hp, complete_raise_work]
    rfl

end Sys2Proof.Proofs
end

section
/-! PROOFS. MemRead after MemWrite, and the statement on the two (20_memory.md). -/

namespace Sys2Proof.Machine

theorem State.bufByte_memWrite_inside (s : State) (a : Nat) {v : Bytes} {i : Nat} (h : i < v.length) :
    (s.memWrite a v).bufByte (a + i) = v[i] := by
  rw [State.bufByte_memWrite, if_pos (by omega), Nat.add_sub_cancel_left, List.getD_eq_getElem v 0 h]

theorem State.bufByte_memWrite_outside (s : State) {a : Nat} {v : Bytes} {b : Nat} (h : b < a ∨ a + v.length ≤ b) :
    (s.memWrite a v).bufByte b = s.bufByte b := by
  rw [State.bufByte_memWrite, if_neg (by omega)]

/-- The two strings have the same length, and byte i of each is the byte of BUF at offset a + i. -/
theorem State.memRead_memWrite_same (s : State) (a : Nat) (v : Bytes) : (s.memWrite a v).memRead a v.length = v := by
  refine List.ext_getElem (State.memRead_length _ a _) fun i _ hi => ?_
  have hread := State.memRead_getElem? (s.memWrite a v) a v.length i hi
  rw [State.bufByte_memWrite_inside s a hi] at hread
  exact (List.getElem?_eq_some_iff.1 hread).2

end Sys2Proof.Machine

namespace Sys2Proof.Proofs

open Sys2Proof Sys2Proof.Machine

/-- Settles O40: a write's bytes inside and outside its region, and MemRead byte by byte. -/
theorem memWriteThenMemRead : Obligations.MemWriteThenMemRead := fun s a v =>
  ⟨State.memRead_memWrite_same s a v, fun _ hout => State.bufByte_memWrite_outside s hout, rfl,
    fun hwf => Memory.setBytes_wf hwf a v,
    fun n i hi => ⟨State.memRead_getElem? s a n i hi, State.memRead_length s a n⟩⟩

end Sys2Proof.Proofs
end

section
/-! PROOFS. The decoder said once: a word is a command's exactly when it is that command's encoding, and illegal exactly
when it is no command's (R104 to R106). -/

namespace Sys2Proof

/-- Each row of the opcode map is the encoding of its command, and every command has its row. -/
theorem mem_opcodeMap_iff {w : Word} {i : Instr} : (w, i) ∈ opcodeMap ↔ w = encode i := by
  have hrows : ∀ row ∈ opcodeMap, row.1 = encode row.2 := by decide
  refine ⟨hrows (w, i), ?_⟩
  rintro rfl
  cases i <;> decide

@[simp] theorem decode_encode (i : Instr) : decode (encode i) = .command i := by cases i <;> rfl

/-- Decoding inverts encoding: the row that `decode` finds stands in the opcode map and matches the whole word. -/
theorem decode_eq_command_iff {w : Word} {i : Instr} : decode w = .command i ↔ w = encode i := by
  refine ⟨fun h => ?_, fun hw => hw ▸ decode_encode i⟩
  unfold decode at h
  split at h
  · next row hrow =>
    have hmatch := List.find?_some hrow
    obtain rfl := beq_iff_eq.1 hmatch
    injection h with hi
    exact mem_opcodeMap_iff.1 (hi ▸ List.mem_of_find?_eq_some hrow)
  · split at h <;> cases h

theorem exists_decode_eq_illegal_iff {w : Word} : (∃ why, decode w = .illegal why) ↔ ∀ i, w ≠ encode i := by
  simp only [ne_eq, ← decode_eq_command_iff]
  cases decode w with
  | command i => simp
  | illegal why => simp

theorem encode_toNat (i : Instr) : (encode i).toNat = (opcode i).toNat := by cases i <;> rfl

/-- A command's word, field by field: RSV is zero and OP is the opcode (R100). -/
theorem eq_encode_iff {w : Word} {i : Instr} :
    w = encode i ↔ w.toNat / 256 = 0 ∧ w.toNat % 256 = (opcode i).toNat := by
  have hop := (opcode i).isLt
  rw [← BitVec.toNat_inj, encode_toNat]
  omega

/-- The eight opcodes that R106 lists are those of the commands. -/
theorem mem_opcodes_iff {n : Nat} :
    n ∈ [0x01, 0x02, 0x03, 0x04, 0x10, 0x11, 0x20, 0x21] ↔ ∃ i, n = (opcode i).toNat := by
  have hlist : [0x01, 0x02, 0x03, 0x04, 0x10, 0x11, 0x20, 0x21] = opcodeMap.map fun row => (opcode row.2).toNat := rfl
  rw [hlist, List.mem_map]
  constructor
  · rintro ⟨row, -, rfl⟩
    exact ⟨row.2, rfl⟩
  · rintro ⟨i, rfl⟩
    exact ⟨(encode i, i), mem_opcodeMap_iff.2 rfl, rfl⟩

/-- The two bullets of R106. -/
theorem exists_decode_eq_illegal_iff_fields {w : Word} :
    (∃ why, decode w = .illegal why) ↔
      (w.toNat / 256 ≠ 0 ∨ w.toNat % 256 ∉ [0x01, 0x02, 0x03, 0x04, 0x10, 0x11, 0x20, 0x21]) := by
  rw [exists_decode_eq_illegal_iff, mem_opcodes_iff]
  simp only [ne_eq, eq_encode_iff, not_and, not_exists]
  by_cases hrsv : w.toNat / 256 = 0
  · simp only [hrsv, forall_const, not_true_eq_false, false_or]
  · simp only [hrsv, IsEmpty.forall_iff, implies_true, not_false_eq_true, true_or]

end Sys2Proof

namespace Sys2Proof.Machine

/-- An engine's turn put in front of the agenda is taken in the state before it was put there. -/
theorem step_engine_cons (s : State) : step { s with agenda := .engine :: s.agenda } = engineTurn s := rfl

theorem engineTurn_illegal {s : State} {why : IllegalReason} (hb : s.busy = true) (hd : decode s.cmd = .illegal why) :
    engineTurn s = .next s.completeIllegal := by
  simp only [engineTurn, hb, if_true, hd]

/-- A CMD write while idle is accepted, whatever the word decodes to (R34). -/
theorem hostAccess_write_cmd_idle {s : State} (hb : s.busy = false) (w : Word) :
    hostAccess { addr := s.config.regBase, width := .w32, op := .write w } s =
      .next { s with cmd := w, busy := true, reply := .writeTaken } := by
  have h := hostAccess_write_reg s .cmd w
  rwa [writeReg_cmd_idle hb] at h

end Sys2Proof.Machine
end

section
/-! PROOFS. The statements on the command word (30_encoding.md). -/

namespace Sys2Proof.Proofs

open Sys2Proof Sys2Proof.Machine

/-- Settles O1: each row's word is the encoding of its command. -/
theorem opcodeMapMatchesWholeWords : Obligations.OpcodeMapMatchesWholeWords := by
  intro w
  have h : ∀ i, decode w = .command i ↔ w = encode i := fun _ => decode_eq_command_iff
  exact ⟨h .crcInit, h .crcUpdate, h .crcFinalize, h .crcCompute, h .keygen, h .derivePublic, h .encrypt, h .decrypt⟩

/-- Settles O3: the fields of an illegal word, the CMD write, and the engine's turn on an illegal word. -/
theorem illegalWordsCompleteWithIllegalCommand : Obligations.IllegalWordsCompleteWithIllegalCommand := by
  refine ⟨fun w => exists_decode_eq_illegal_iff_fields, fun s w hb => hostAccess_write_cmd_idle hb w,
    fun s why hb hd => ?_⟩
  rw [step_engine_cons, engineTurn_illegal hb hd, completeIllegal_eq]

end Sys2Proof.Proofs
end

section
/-! PROOFS. What the commands of the CRC-32 family do, said once: how a command completes without having drawn, and the
laws of the accumulator (R150 to R160). -/

namespace Sys2Proof.Machine

/-- A command that succeeds without a store and without having drawn (R131, Ok branch). -/
theorem complete_success_work (s : State) (res : Word) (crc : Option Word) :
    s.complete (.success [] res crc s.work) =
      { s with
        crcState := crc.getD s.crcState
        result := res
        err := 0x00
        busy := false
        secrets := Secrets.zero } := by
  rw [complete_success]
  simp [State.work]

/-- A command whose prologue raises an error leaves everything but what R312 names. -/
theorem exec_of_prologue_some {i : Instr} {s : State} {e : ErrorCode} (h : prologue i s = some e) :
    exec i s = .next { s with result := 0x00000000, err := e.code, busy := false, secrets := Secrets.zero } := by
  rw [exec_eq, execBody_of_prologue_some h, complete_raise_work]

/-- CRC_INIT has no operand, so no check of the prologue names it (R107). -/
theorem prologue_crcInit (s : State) : prologue .crcInit s = none := rfl

/-- CRC_FINALIZE has no operand, so no check of the prologue names it (R107). -/
theorem prologue_crcFinalize (s : State) : prologue .crcFinalize s = none := rfl

/-! ### The four commands (R157 to R160) -/

theorem exec_crcInit (s : State) :
    exec .crcInit s =
      .next { s with
        crcState := crcInitValue, result := 0x00000000, err := 0x00, busy := false, secrets := Secrets.zero } := by
  rw [exec_eq, execBody, crcInitBody, afterPrologue_none (prologue_crcInit s), complete_success_work, Option.getD_some]

theorem exec_crcUpdate_valid {s : State} (h : s.srcAddr.toNat + s.srcLen.toNat ≤ s.config.bufSize) :
    exec .crcUpdate s =
      .next { s with
        crcState := crc32Update s.crcState s.srcBytes
        result := 0x00000000
        err := 0x00
        busy := false
        secrets := Secrets.zero } := by
  have hp : prologue .crcUpdate s = none := by rw [prologue_crcUpdate, if_neg (Nat.not_lt.2 h)]
  rw [exec_eq, execBody, crcUpdateBody, afterPrologue_none hp, complete_success_work, Option.getD_some]

theorem exec_crcFinalize (s : State) :
    exec .crcFinalize s =
      .next { s with result := crc32Finalize s.crcState, err := 0x00, busy := false, secrets := Secrets.zero } := by
  rw [exec_eq, execBody, crcFinalizeBody, afterPrologue_none (prologue_crcFinalize s), complete_success_work,
    Option.getD_none]

theorem exec_crcCompute_valid {s : State} (h : s.srcAddr.toNat + s.srcLen.toNat ≤ s.config.bufSize) :
    exec .crcCompute s =
      .next { s with result := crc32Compute s.srcBytes, err := 0x00, busy := false, secrets := Secrets.zero } := by
  have hp : prologue .crcCompute s = none := by rw [prologue_crcCompute, if_neg (Nat.not_lt.2 h)]
  rw [exec_eq, execBody, crcComputeBody, afterPrologue_none hp, complete_success_work, Option.getD_none]

/-! ### The accumulator (R152, R155) -/

@[simp] theorem crc32Update_nil (c : Word) : crc32Update c [] = c := rfl

theorem crc32Update_append (c : Word) (x y : Bytes) : crc32Update c (x ++ y) = crc32Update (crc32Update c x) y :=
  List.foldl_append

/-- Updating over a list of chunks, one after the other, is updating over their concatenation. -/
theorem crc32Update_flatten (c : Word) (chunks : List Bytes) :
    crc32Update c chunks.flatten = chunks.foldl crc32Update c := List.foldl_flatten

end Sys2Proof.Machine
end

section
/-! PROOFS. The statements on the CRC-32 family (41_crc32.md). -/

namespace Sys2Proof.Proofs

open Sys2Proof Sys2Proof.Machine

/-- Settles O10: the prologue's one check decides between the two clauses on `exec`. -/
theorem crcUpdateAdvancesTheAccumulator : Obligations.CrcUpdateAdvancesTheAccumulator :=
  ⟨rfl, fun _ hvalid => exec_crcUpdate_valid hvalid,
    fun s hout => exec_of_prologue_some ((prologue_crcUpdate s).trans (if_pos hout)), crc32Update_nil, by decide⟩

/-- Settles O12: the prologue's one check decides between the two clauses on `exec`. -/
theorem crcComputeIsOneShot : Obligations.CrcComputeIsOneShot :=
  ⟨rfl, fun _ hvalid => exec_crcCompute_valid hvalid,
    fun s hout => exec_of_prologue_some ((prologue_crcCompute s).trans (if_pos hout)), by decide⟩

/-- Settles O14: the one-shot CRC is the finalized update over the whole, and an update over a concatenation is the
updates over its parts. -/
theorem crcOfChunksIsCrcOfTheWhole : Obligations.CrcOfChunksIsCrcOfTheWhole :=
  ⟨fun chunks => congrArg crc32Finalize (crc32Update_flatten crcInitValue chunks).symm, crc32Update_append⟩

/-- Settles O9: the next state depends on `s` only in fields that CRC_INIT does not write. -/
theorem crcInitLoadsInit : Obligations.CrcInitLoadsInit := by
  refine ⟨rfl, exec_crcInit, fun s t h => ?_⟩
  rw [exec_crcInit] at h
  injection h with h
  rw [← h, exec_crcInit]

/-- Settles O11: CRC_FINALIZE does not write CRC_STATE, so a second one reads what the first one read. -/
theorem crcFinalizeReportsTheChecksum : Obligations.CrcFinalizeReportsTheChecksum := by
  refine ⟨rfl, exec_crcFinalize, fun s t h => ?_, rfl⟩
  rw [exec_crcFinalize] at h
  injection h with h
  rw [← h, exec_crcFinalize]

end Sys2Proof.Proofs
end

section
/-! PROOFS. The bytes of a clamped scalar, and the little-endian value of a string by its first and its last byte
(R11, R182 to R185). -/

namespace Sys2Proof.Machine

/-! ### Clamping byte by byte (R182) -/

/-- What clamping makes of the byte `b` at position `j`. -/
def clampByte (j : Nat) (b : Byte) : Byte :=
  if j = 0 then b &&& 0xF8 else if j = 31 then (b &&& 0x7F) ||| 0x40 else b

@[simp] theorem clampByte_first (b : Byte) : clampByte 0 b = b &&& 0xF8 := rfl

@[simp] theorem clampByte_last (b : Byte) : clampByte 31 b = (b &&& 0x7F) ||| 0x40 := rfl

theorem clampByte_middle {j : Nat} (h1 : 1 ≤ j) (h30 : j ≤ 30) (b : Byte) : clampByte j b = b := by
  rw [clampByte, if_neg (by omega), if_neg (by omega)]

/-- Clearing the low three bits leaves a multiple of 8. -/
theorem and_F8_mod_8 (b : Byte) : (b &&& 0xF8).toNat % 8 = 0 := by
  revert b; decide

/-- With bit 7 cleared and bit 6 set, a byte lies in [64, 128). -/
theorem and_7F_or_40_bounds (b : Byte) : 64 ≤ ((b &&& 0x7F) ||| 0x40).toNat ∧ ((b &&& 0x7F) ||| 0x40).toNat < 128 := by
  revert b; decide

theorem clampByte_clampByte (j : Nat) (b : Byte) : clampByte j (clampByte j b) = clampByte j b := by
  unfold clampByte
  split_ifs
  · rw [BitVec.and_assoc, BitVec.and_self]
  · revert b; decide
  · rfl

theorem clamp_getElem? (k : Bytes) (j : Nat) : (clamp k)[j]? = k[j]?.map (clampByte j) := by
  simp only [clamp, List.getElem?_modify, Option.map_eq_map, Option.map_map]
  congr 1
  funext b
  by_cases h0 : j = 0
  · simp [h0]
  · by_cases h31 : j = 31
    · simp [h31]
    · simp [clampByte, h0, h31, Ne.symm h0, Ne.symm h31]

theorem clamp_getD {k : Bytes} {j : Nat} (h : j < k.length) : (clamp k).getD j 0 = clampByte j (k.getD j 0) := by
  simp [List.getD_eq_getElem?_getD, clamp_getElem?, List.getElem?_eq_getElem h]

theorem clamp_clamp (k : Bytes) : clamp (clamp k) = clamp k := by
  refine List.ext_getElem? fun j => ?_
  simp only [clamp_getElem?, Option.map_map]
  congr 1
  exact funext (clampByte_clampByte j)

theorem decodeScalar_clamp (k : Bytes) : decodeScalar (clamp k) = decodeScalar k := congrArg le (clamp_clamp k)

/-! ### The ends of a little-endian value (R11) -/

theorem le_append (x y : Bytes) : le (x ++ y) = le x + 256 ^ x.length * le y := by
  induction x with
  | nil => simp [le]
  | cons b x ih =>
    simp only [List.cons_append, le, ih, List.length_cons, pow_succ']
    ring

/-- The last byte of a string weighs most. -/
theorem le_eq_take_add_last {n : Nat} {x : Bytes} (h : x.length = n + 1) :
    le x = le (x.take n) + 256 ^ n * (x.getD n 0).toNat := by
  have hn : n < x.length := by omega
  have hsplit : x = x.take n ++ [x.getD n 0] := by
    rw [List.getD_eq_getElem x 0 hn, List.take_append_getElem hn, List.take_of_length_le (by omega)]
  calc le x = le (x.take n ++ [x.getD n 0]) := congrArg le hsplit
    _ = _ := by simp [le_append, le, Nat.min_eq_left hn.le]

theorem le_take_lt {n : Nat} {x : Bytes} (h : n ≤ x.length) : le (x.take n) < 256 ^ n := by
  have hlt := le_lt (x.take n)
  rwa [List.length_take, Nat.min_eq_left h] at hlt

/-- The first byte is the value modulo 256. -/
theorem le_mod_256 (x : Bytes) : le x % 256 = (x.getD 0 0).toNat := by
  cases x with
  | nil => rfl
  | cons b x =>
    have hb := b.isLt
    simp only [le, List.getD_cons_zero]
    omega

/-- The bounds of the last byte bound the value. -/
theorem le_bounds_of_last {n lo hi : Nat} {x : Bytes} (h : x.length = n + 1) (hlo : lo ≤ (x.getD n 0).toNat)
    (hhi : (x.getD n 0).toNat < hi) : 256 ^ n * lo ≤ le x ∧ le x < 256 ^ n * hi := by
  have hsplit := le_eq_take_add_last h
  have hrest : le (x.take n) < 256 ^ n := le_take_lt (by omega)
  have hmin := Nat.mul_le_mul_left (256 ^ n) hlo
  have hmax := Nat.mul_le_mul_left (256 ^ n) (Nat.succ_le_of_lt hhi)
  rw [Nat.mul_succ] at hmax
  omega

/-- And a bound of the value bounds the last byte. -/
theorem last_lt_of_le_lt {n hi : Nat} {x : Bytes} (h : x.length = n + 1) (hlt : le x < 256 ^ n * hi) :
    (x.getD n 0).toNat < hi := by
  rw [le_eq_take_add_last h] at hlt
  exact Nat.lt_of_mul_lt_mul_left ((Nat.le_add_left _ _).trans_lt hlt)

/-! ### u-coordinates (R184, R185) -/

theorem two_pow_255 : 2 ^ 255 = 256 ^ 31 * 128 := by norm_num

/-- The 255 bits of a 32-byte string: bit 255 is the high bit of byte 31. -/
theorem le_mod_two_pow_255 {u : Bytes} (h : u.length = 32) :
    le u % 2 ^ 255 = le (u.take 31) + 256 ^ 31 * ((u.getD 31 0).toNat % 128) := by
  have hrest : le (u.take 31) < 256 ^ 31 := le_take_lt (by omega)
  rw [le_eq_take_add_last h, two_pow_255, Nat.mod_mul, Nat.add_mul_mod_self_left, Nat.mod_eq_of_lt hrest,
    Nat.add_mul_div_left _ _ (by norm_num), Nat.div_eq_of_lt hrest, Nat.zero_add]

theorem xor_high_bit_mod_128 (b : Byte) : (b ^^^ 0x80).toNat % 128 = b.toNat % 128 := by
  revert b; decide

theorem decodeU_flip_bit_255 {u : Bytes} (h : u.length = 32) :
    decodeU (u.modify 31 fun b => b ^^^ 0x80) = decodeU u := by
  have htake : (u.modify 31 fun b => b ^^^ 0x80).take 31 = u.take 31 := by
    rw [List.take_modify, List.modify_eq_self (List.length_take_le 31 u)]
  have hlast : (u.modify 31 fun b => b ^^^ 0x80).getD 31 0 = u.getD 31 0 ^^^ 0x80 := by
    simp [List.getD_eq_getElem?_getD, h]
  rw [decodeU, decodeU, le_mod_two_pow_255 ((List.length_modify ..).trans h), le_mod_two_pow_255 h, htake, hlast,
    xor_high_bit_mod_128]

theorem decodeU_leBytes {x : Nat} (h : x < 2 ^ 255) : decodeU (leBytes 32 x) = x % p25519 := by
  have h256 : x < 256 ^ 32 := h.trans (by norm_num)
  rw [decodeU, le_leBytes, Nat.mod_eq_of_lt h256, Nat.mod_eq_of_lt h]

theorem p25519_lt : p25519 < 2 ^ 255 := by decide

@[simp] theorem encodeU_length (x : Nat) : (encodeU x).length = 32 := leBytes_length 32 _

theorem le_encodeU (x : Nat) : le (encodeU x) = x % p25519 := by
  have hlt : x % p25519 < p25519 := Nat.mod_lt x (by decide)
  have h256 : p25519 < 256 ^ 32 := p25519_lt.trans (by norm_num)
  rw [encodeU, le_leBytes, Nat.mod_eq_of_lt (hlt.trans h256)]

theorem encodeU_last_lt (x : Nat) : ((encodeU x).getD 31 0).toNat < 128 := by
  refine last_lt_of_le_lt (encodeU_length x) ?_
  rw [le_encodeU, ← two_pow_255]
  exact (Nat.mod_lt x (by decide)).trans p25519_lt

end Sys2Proof.Machine
end

section
/-! PROOFS. The statements on scalars and u-coordinates (42_x25519.md). -/

namespace Sys2Proof.Proofs

open Sys2Proof Sys2Proof.Machine

/-- Settles O16: clamping acts on each byte by its position. -/
theorem clampFixesFiveBits : Obligations.ClampFixesFiveBits := by
  intro k hk
  have hbyte : ∀ j < 32, (clamp k).getD j 0 = clampByte j (k.getD j 0) := fun j hj => clamp_getD (hk ▸ hj)
  refine ⟨(clamp_length k).trans hk, hbyte 0 (by decide), hbyte 31 (by decide), fun j h1 h30 => ?_⟩
  rw [hbyte j (by omega), clampByte_middle h1 h30]

/-- Settles O17: byte 31 of a clamped scalar bounds its value, and byte 0 is the value modulo 256. -/
theorem decodedScalarRange : Obligations.DecodedScalarRange := by
  intro k hk
  have hlen : (clamp k).length = 31 + 1 := (clamp_length k).trans hk
  have hfirst : le (clamp k) % 256 = (k.getD 0 0 &&& 0xF8).toNat := by
    rw [le_mod_256, clamp_getD (by omega), clampByte_first]
  have hlast : (clamp k).getD 31 0 = (k.getD 31 0 &&& 0x7F) ||| 0x40 := by
    rw [clamp_getD (by omega), clampByte_last]
  obtain ⟨hbyteLo, hbyteHi⟩ := and_7F_or_40_bounds (k.getD 31 0)
  obtain ⟨hlo, hhi⟩ := le_bounds_of_last hlen (hlast ▸ hbyteLo) (hlast ▸ hbyteHi)
  refine ⟨rfl, ?_, ?_, ?_⟩
  · calc 2 ^ 254 = 256 ^ 31 * 64 := by norm_num
      _ ≤ le (clamp k) := hlo
  · exact two_pow_255 ▸ hhi
  · calc le (clamp k) % 8 = le (clamp k) % 256 % 8 := (Nat.mod_mod_of_dvd _ (by decide)).symm
      _ = 0 := by rw [hfirst, and_F8_mod_8]

/-- Settles O18: X25519 sees a scalar only through its clamped form. -/
theorem clampingTwiceIsClampingOnce : Obligations.ClampingTwiceIsClampingOnce := by
  intro k u
  have hx : x25519 (clamp k) u = x25519 k u := by rw [x25519, x25519, decodeScalar_clamp]
  exact ⟨clamp_clamp k, hx, congrArg derivePublicKey (clamp_clamp k)⟩

/-- Settles O19: X25519 sees a u-coordinate only through `decodeU`. -/
theorem uCoordinatesAreMaskedAndReduced : Obligations.UCoordinatesAreMaskedAndReduced := by
  refine ⟨fun u => rfl, fun k u hu => ?_, fun k n hn => ?_⟩
  · rw [x25519, x25519, decodeU_flip_bit_255 hu]
  · have hn255 : n < 2 ^ 255 := by omega
    have hsum : 2 ^ 255 - 19 + n < 2 ^ 255 := by omega
    have hdecode : decodeU (leBytes 32 (2 ^ 255 - 19 + n)) = decodeU (leBytes 32 n) := by
      rw [decodeU_leBytes hsum, decodeU_leBytes hn255]
      exact Nat.add_mod_left p25519 n
    rw [x25519, x25519, hdecode]

/-- Settles O20: the residue is below p, so 32 bytes hold it and byte 31 is below 128. -/
theorem encodedUCoordinateIsCanonical : Obligations.EncodedUCoordinateIsCanonical := by
  intro x
  refine ⟨rfl, encodeU_length x, le_encodeU x, ?_⟩
  rw [BitVec.getLsbD, Nat.testBit_lt_two_pow (encodeU_last_lt x)]

end Sys2Proof.Proofs
end

section
/-! PROOFS. The SHA-256 message schedule said once: which words an extension keeps, and the recurrence it meets, in the
newest-first order it is built in (R214, R215). -/

namespace Sys2Proof.Machine

/-- Where a chunk stands in the string it is cut from. -/
theorem chunks_getD {k t : Nat} (n : Nat) (bs : Bytes) (h : t < k) :
    (chunks n k bs).getD t [] = slice bs (n * t) (n * t + n) := by
  induction k generalizing t bs with
  | zero => omega
  | succ k ih =>
    cases t with
    | zero => simp [chunks, slice]
    | succ t =>
      rw [chunks, List.getD_cons_succ, ih _ (by omega), slice, slice, List.drop_drop, Nat.mul_succ,
        Nat.add_sub_cancel_left, Nat.add_sub_cancel_left, Nat.add_comm n]

@[simp] theorem blockWords_length (block : Bytes) : (blockWords block).length = 16 := by
  rw [blockWords, List.length_map, chunks_length]

theorem blockWords_getD (block : Bytes) {t : Nat} (h : t < 16) :
    (blockWords block).getD t 0 = BitVec.ofNat 32 (be (slice block (4 * t) (4 * t + 4))) := by
  have hzero : (0 : Word) = BitVec.ofNat 32 (be []) := rfl
  rw [blockWords, hzero, List.getD_map, chunks_getD 4 block h]

/-! ### Extension, newest word first -/

@[simp] theorem extendSchedule_length (n : Nat) (ws : List Word) : (extendSchedule n ws).length = ws.length + n := by
  induction n generalizing ws with
  | zero => rfl
  | succ n ih =>
    rw [extendSchedule, ih, List.length_cons]
    omega

/-- The words extended from stay, behind the `n` new ones. -/
theorem extendSchedule_getD_add (n : Nat) (ws : List Word) (i : Nat) :
    (extendSchedule n ws).getD (i + n) 0 = ws.getD i 0 := by
  induction n generalizing ws i with
  | zero => rfl
  | succ n ih => rw [extendSchedule, ← Nat.add_assoc, Nat.add_right_comm, ih, List.getD_cons_succ]

/-- Every word of a newest-first list that has 16 older ones is what R215 makes of them. -/
def MeetsScheduleRecurrence (ws : List Word) : Prop :=
  ∀ i, i + 16 < ws.length →
    ws.getD i 0 = smallSigma1 (ws.getD (i + 2) 0) + ws.getD (i + 7) 0 + smallSigma0 (ws.getD (i + 15) 0) +
      ws.getD (i + 16) 0

/-- Extending keeps the recurrence: each new word is made by it, and the older ones only move back by one. -/
theorem meetsScheduleRecurrence_extendSchedule {ws : List Word} (h : MeetsScheduleRecurrence ws) (n : Nat) :
    MeetsScheduleRecurrence (extendSchedule n ws) := by
  induction n generalizing ws with
  | zero => exact h
  | succ n ih =>
    refine ih fun i hi => ?_
    cases i with
    | zero => rfl
    | succ i => exact h i (by rw [List.length_cons] at hi; omega)

/-! ### The schedule of a block -/

@[simp] theorem shaSchedule_length (block : Bytes) : (shaSchedule block).length = 64 := by simp [shaSchedule]

/-- `W[t]` is word 63 - t of the newest-first list. -/
theorem shaSchedule_getD (block : Bytes) {t : Nat} (h : t < 64) :
    (shaSchedule block).getD t 0 = (extendSchedule 48 (blockWords block).reverse).getD (63 - t) 0 := by
  have hlen : (extendSchedule 48 (blockWords block).reverse).length = 64 := by simp
  rw [shaSchedule, List.getD_reverse t (hlen ▸ h), hlen]

theorem shaSchedule_getD_of_lt_16 (block : Bytes) {t : Nat} (h : t < 16) :
    (shaSchedule block).getD t 0 = (blockWords block).getD t 0 := by
  rw [shaSchedule_getD block (by omega), show 63 - t = (15 - t) + 48 by omega, extendSchedule_getD_add,
    List.getD_reverse _ (by simp; omega), blockWords_length, show 16 - 1 - (15 - t) = t by omega]

/-- The 16 words of the block meet the recurrence because none of them has 16 older ones. -/
theorem meetsScheduleRecurrence_blockWords (block : Bytes) : MeetsScheduleRecurrence (blockWords block).reverse := by
  intro i hi
  simp at hi

theorem shaSchedule_recurrence (block : Bytes) {t : Nat} (h16 : 16 ≤ t) (h64 : t < 64) :
    (shaSchedule block).getD t 0 =
      smallSigma1 ((shaSchedule block).getD (t - 2) 0) + (shaSchedule block).getD (t - 7) 0 +
        smallSigma0 ((shaSchedule block).getD (t - 15) 0) + (shaSchedule block).getD (t - 16) 0 := by
  have hback : ∀ j ≤ t, (shaSchedule block).getD (t - j) 0 =
      (extendSchedule 48 (blockWords block).reverse).getD (63 - t + j) 0 := fun j hj => by
    rw [shaSchedule_getD block (by omega), show 63 - (t - j) = 63 - t + j by omega]
  rw [shaSchedule_getD block h64, hback 2 (by omega), hback 7 (by omega), hback 15 (by omega), hback 16 h16]
  exact meetsScheduleRecurrence_extendSchedule (meetsScheduleRecurrence_blockWords block) 48 (63 - t) (by simp; omega)

end Sys2Proof.Machine
end

section
/-! PROOFS. The statements on SHA-256 (43_sha256_hkdf.md). -/

namespace Sys2Proof.Proofs

open Sys2Proof Sys2Proof.Machine

/-- Settles O27: the schedule is the block's words extended by 48, and each extension makes its word by R215. -/
theorem shaScheduleMeetsItsRecurrence : Obligations.ShaScheduleMeetsItsRecurrence := fun block _ =>
  ⟨shaSchedule_length block, fun _ ht => (shaSchedule_getD_of_lt_16 block ht).trans (blockWords_getD block ht),
    fun _ => shaSchedule_recurrence block⟩

end Sys2Proof.Proofs
end

section
/-! PROOFS. The AES-256 key expansion said once: the key's words stay at its front, and each later word is made of the
words before it (R243). -/

namespace Sys2Proof.Machine

theorem suffix_extendKey (n i : Nat) (ws : List Bytes) : ws <:+ extendKey n i ws := by
  induction n generalizing i ws with
  | zero => exact List.suffix_rfl
  | succ n ih => exact (List.suffix_cons _ ws).trans (ih _ _)

/-- Every word from index 8 on is what R243 makes of the words before it; here the oldest word is first, and
`nextKeyWord` reads the newest first. -/
def MeetsKeyRecurrence (ws : List Bytes) : Prop :=
  ∀ i, 8 ≤ i → i < ws.length → ws.getD i [] = nextKeyWord i (ws.take i).reverse

theorem meetsKeyRecurrence_append_nextKeyWord {ws : List Bytes} (h : MeetsKeyRecurrence ws) :
    MeetsKeyRecurrence (ws ++ [nextKeyWord ws.length ws.reverse]) := by
  intro i h8 hi
  rw [List.length_append, List.length_singleton] at hi
  obtain hlt | rfl := Nat.lt_or_eq_of_le (Nat.le_of_lt_succ hi)
  · rw [List.getD_append _ _ _ _ hlt, List.take_append_of_le_length hlt.le]
    exact h i h8 hlt
  · rw [List.getD_append_right _ _ _ _ le_rfl, Nat.sub_self, List.take_left]
    rfl

/-- Extending keeps the recurrence when the first new index is the number of words there are. -/
theorem meetsKeyRecurrence_extendKey {ws : List Bytes} (h : MeetsKeyRecurrence ws.reverse) (n : Nat) :
    MeetsKeyRecurrence (extendKey n ws.length ws).reverse := by
  induction n generalizing ws with
  | zero => exact h
  | succ n ih =>
    refine ih (ws := nextKeyWord ws.length ws :: ws) ?_
    simpa using meetsKeyRecurrence_append_nextKeyWord h

/-! ### The words of a key -/

theorem chunks_prefix_keyExpansion (key : Bytes) : chunks 4 8 key <+: keyExpansion key := by
  simpa [keyExpansion] using List.reverse_prefix.2 (suffix_extendKey 52 8 (chunks 4 8 key).reverse)

theorem keyExpansion_getD_of_lt_8 (key : Bytes) {i : Nat} (h : i < 8) :
    (keyExpansion key).getD i [] = slice key (4 * i) (4 * i + 4) := by
  obtain ⟨later, hlater⟩ := chunks_prefix_keyExpansion key
  rw [← hlater, List.getD_append _ _ _ _ (by rwa [chunks_length]), chunks_getD 4 key h]

/-- The key's own words meet the recurrence because there are only 8 of them. -/
theorem meetsKeyRecurrence_keyExpansion (key : Bytes) : MeetsKeyRecurrence (keyExpansion key) := by
  have hlen : (chunks 4 8 key).reverse.length = 8 := by rw [List.length_reverse, chunks_length]
  have hkey : MeetsKeyRecurrence (chunks 4 8 key).reverse.reverse := fun i h8 hi => by
    rw [List.length_reverse, hlen] at hi
    omega
  have := meetsKeyRecurrence_extendKey hkey 52
  rwa [hlen] at this

/-- The word `j + 1` places before word `i`, as `nextKeyWord` reads it. -/
theorem getD_reverse_take {ws : List Bytes} {i j : Nat} (hj : j < i) (hi : i ≤ ws.length) :
    (ws.take i).reverse.getD j [] = ws.getD (i - (j + 1)) [] := by
  have hlen : (ws.take i).length = i := List.length_take_of_le hi
  rw [List.getD_reverse j (hlen.symm ▸ hj), hlen, List.getD_eq_getElem?_getD, List.getElem?_take_of_lt (by omega),
    ← List.getD_eq_getElem?_getD, Nat.sub_sub, Nat.add_comm 1]

theorem keyExpansion_recurrence {key : Bytes} (hkey : key.length = 32) {i : Nat} (h8 : 8 ≤ i) (h60 : i < 60) :
    (keyExpansion key).getD i [] =
      xorBytes ((keyExpansion key).getD (i - 8) [])
        (if i % 8 = 0 then xorBytes (subWord (rotWord ((keyExpansion key).getD (i - 1) []))) (rcon (i / 8))
         else if i % 8 = 4 then subWord ((keyExpansion key).getD (i - 1) [])
         else (keyExpansion key).getD (i - 1) []) := by
  have hlt : i < (keyExpansion key).length := (keyExpansion_spec key hkey).1.symm ▸ h60
  rw [meetsKeyRecurrence_keyExpansion key i h8 hlt, nextKeyWord, getD_reverse_take (by omega) hlt.le,
    getD_reverse_take (by omega) hlt.le]

end Sys2Proof.Machine
end

section
/-! PROOFS. The S-box read backwards: undoing the affine map on a table entry gives the field inverse (R240, R241). -/

namespace Sys2Proof.Machine

/-- The inverse of the affine map of R241. -/
def sboxAffineInv (y : Byte) : Byte := y.rotateLeft 1 ^^^ y.rotateLeft 3 ^^^ y.rotateLeft 6 ^^^ 0x05

theorem sboxAffine_sboxAffineInv (y : Byte) : sboxAffine (sboxAffineInv y) = y := by
  revert y; decide

/-- Undoing the affine map on the table entry of a nonzero byte gives the byte's inverse. -/
theorem gf8Mul_sboxAffineInv_sbox {a : Byte} (h : a ≠ 0) : gf8Mul a (sboxAffineInv (sbox a)) = 1 := by
  revert a; decide

end Sys2Proof.Machine
end

section
/-! PROOFS. The statements on AES-256 (44_aes256_gcm.md). -/

namespace Sys2Proof.Proofs

open Sys2Proof Sys2Proof.Machine

/-- Settles O30: the expansion begins with the key's 8 words and keeps the recurrence at every word it adds. -/
theorem keyExpansionMeetsItsRecurrence : Obligations.KeyExpansionMeetsItsRecurrence := fun key hkey =>
  ⟨(keyExpansion_spec key hkey).1, fun _ => keyExpansion_getD_of_lt_8 key, fun _ => keyExpansion_recurrence hkey⟩

/-- Settles O29: the inverse of a nonzero byte is its table entry with the affine map undone. -/
theorem sboxIsTheAffineInverse : Obligations.SboxIsTheAffineInverse :=
  ⟨by decide, fun a ha =>
    ⟨sboxAffineInv (sbox a), gf8Mul_sboxAffineInv_sbox ha, (sboxAffine_sboxAffineInv (sbox a)).symm⟩⟩

end Sys2Proof.Proofs
end

section
/-! PROOFS. How long a sealed or opened text is, at the level of the commands: a command with a destination that ends
without an error has stored the `outlen` bytes of its dstR and reports that number (R103, R271). -/

namespace Sys2Proof.Machine

theorem ErrorCode.code_ne_zero (e : ErrorCode) : e.code ≠ 0x00 := by cases e <;> decide

/-- A result of a command's body that is an error, or a success that stores `outlen` bytes at dstR and reports their
number; the success comes only after the prologue's checks. -/
def FailsOrStoresOutlen (i : Instr) (s : State) (r : ExecResult) : Prop :=
  (∃ e w, r = .raise e w) ∨
  (prologue i s = none ∧ ∃ v w, v.length = outlen i s ∧
    r = .success [(s.dstAt, v)] (BitVec.ofNat 32 (outlen i s)) none w)

theorem failsOrStoresOutlen_afterPrologue {i : Instr} {s : State} {r : ExecResult}
    (h : prologue i s = none → FailsOrStoresOutlen i s r) : FailsOrStoresOutlen i s (afterPrologue i s r) := by
  cases hp : prologue i s with
  | some e => exact .inl ⟨e, s.work, afterPrologue_some hp r⟩
  | none => exact (afterPrologue_none hp r).symm ▸ h hp

theorem encryptBody_failsOrStoresOutlen (s : State) : FailsOrStoresOutlen .encrypt s (encryptBody s) := by
  refine failsOrStoresOutlen_afterPrologue fun hp => ?_
  split
  · next e w _ => exact .inl ⟨e, w, rfl⟩
  · next e w hseal =>
    have hlen := sealEnvelope_ok_length hseal
    rw [State.srcBytes, State.memRead_length] at hlen
    exact .inr ⟨hp, e, w, hlen, rfl⟩

theorem decryptBody_failsOrStoresOutlen (s : State) : FailsOrStoresOutlen .decrypt s (decryptBody s) := by
  refine failsOrStoresOutlen_afterPrologue fun hp => ?_
  split
  · next e w _ => exact .inl ⟨e, w, rfl⟩
  · next p w hopen =>
    have hlen := (openEnvelope_ok_length hopen).2
    rw [State.srcBytes, State.memRead_length] at hlen
    exact .inr ⟨hp, p, w, hlen, rfl⟩

/-- The destination lies inside BUF, so its length fits RESULT. -/
theorem outlen_lt_of_prologue_none {i : Instr} {s : State} (hc : s.config.wellFormed) (hw : writesDst i = true)
    (hp : prologue i s = none) : outlen i s < 2 ^ 32 := by
  obtain ⟨-, -, -, -, -, hdst⟩ := (prologue_eq_none_iff i s).1 hp
  obtain ⟨-, hsize, -⟩ := hc
  have := hdst hw
  omega

theorem stores_outlen_of_success {i : Instr} {s t : State} (hc : s.config.wellFormed) (hw : writesDst i = true)
    (hbody : FailsOrStoresOutlen i s (execBody i s)) (h : exec i s = .next t) (herr : t.err = 0x00) :
    prologue i s = none ∧ t.result.toNat = outlen i s ∧
      ∃ v : Bytes, v.length = outlen i s ∧ t.buf = s.buf.setBytes s.dstAddr.toNat v := by
  obtain rfl := eq_complete_of_exec h
  rcases hbody with ⟨e, w, hr⟩ | ⟨hp, v, w, hlen, hr⟩
  · rw [hr, complete_raise] at herr
    exact absurd herr e.code_ne_zero
  · rw [hr, complete_success]
    exact ⟨hp, Nat.mod_eq_of_lt (outlen_lt_of_prologue_none hc hw hp), v, hlen, rfl⟩

end Sys2Proof.Machine
end

section
/-! PROOFS. The statement on the lengths of ENCRYPT and DECRYPT (45_envelope.md). -/

namespace Sys2Proof.Proofs

open Sys2Proof Sys2Proof.Machine

/-- Settles O37: a successful ENCRYPT or DECRYPT stores its `outlen` bytes, and DECRYPT's prologue has checked that
there are 60 bytes to take off. -/
theorem envelopeLengthInvariant : Obligations.EnvelopeLengthInvariant := by
  refine fun s t hc herr => ⟨fun h => ?_, fun h => ?_⟩
  · obtain ⟨-, hstored⟩ := stores_outlen_of_success hc rfl (encryptBody_failsOrStoresOutlen s) h herr
    exact hstored
  · obtain ⟨hp, hstored⟩ := stores_outlen_of_success hc rfl (decryptBody_failsOrStoresOutlen s) h herr
    obtain ⟨hmin, -⟩ := (prologue_eq_none_iff .decrypt s).1 hp
    exact ⟨hmin rfl, hstored⟩

end Sys2Proof.Proofs
end

section
/-! PROOFS. What a command that ends with an error leaves behind (R312). -/

namespace Sys2Proof.Machine

/-- RNG_FAIL after a command is what it was, or set because the command ends with RandomSourceFailure (R38, R312). -/
theorem complete_rngFail_eq_or_err (i : Instr) (s : State) :
    (s.complete (execBody i s)).rngFail = (s.rngFail || (s.complete (execBody i s)).err == 0x06) := by
  by_cases herr : (s.complete (execBody i s)).err = 0x06
  · rw [complete_rngFail_of_err herr, herr, beq_self_eq_true, Bool.or_true]
  · have hdraw : (execBody i s).work.rngFailed = false :=
      Bool.eq_false_iff.2 fun hf => herr (complete_err_of_rngFailed hf)
    rw [complete_rngFail, hdraw, beq_false_of_ne herr]

/-- A command that ends with an error has raised it; a success reports 0 in ERR. -/
theorem execBody_eq_raise_of_err {i : Instr} {s : State} (h : (s.complete (execBody i s)).err ≠ 0x00) :
    ∃ e w, execBody i s = .raise e w := by
  rcases execBody_cases i s with ⟨e, w, hraise, -⟩ | ⟨ws, res, crc, w, hok, -⟩
  · exact ⟨e, w, hraise⟩
  · rw [hok, complete_success] at h
    exact absurd rfl h

end Sys2Proof.Machine
end

section
/-! PROOFS. The statement on the effect of an error (60_exceptions.md). -/

namespace Sys2Proof.Proofs

open Sys2Proof Sys2Proof.Machine

/-- Settles O7: only a raised error leaves ERR nonzero, and its completion changes the fields R312 names and no other.
RNG_FAIL agrees with the code, because every draw that fails ends the command with RandomSourceFailure and that code is
never raised for another reason. -/
theorem errorsLeaveEverythingButTheCode : Obligations.ErrorsLeaveEverythingButTheCode := by
  refine ⟨fun i s t h herr => ?_, completeIllegal_eq⟩
  obtain rfl := eq_complete_of_exec h
  obtain ⟨e, w, hraise⟩ := execBody_eq_raise_of_err herr
  rw [← complete_rngFail_eq_or_err, hraise, complete_raise]

end Sys2Proof.Proofs
end

section
/-! PROOFS. What a legal register write does, by its target alone, and STATUS after a reset. -/

namespace Sys2Proof.Machine

/-- A write with a register target is answered, whatever the state (R76, R356). -/
theorem hostAccess_write_of_register {s : State} {a : BusAccess} {off : Nat} {v : Word}
    (ht : busTarget s.config a = .register off) (ho : a.op = .write v) :
    hostAccess a s = .next (s.busWriteReg off v) := by
  simp only [hostAccess, ht, ho]

theorem busWriteReg_status (s : State) (v : Word) :
    s.busWriteReg 0x04 v = { s with hazard := s.hazard && !v.getLsbD 1, reply := .writeTaken } := by
  have h := busWriteReg_eq s .status v
  rwa [writeReg_status] at h

theorem busWriteReg_result (s : State) (v : Word) : s.busWriteReg 0x08 v = { s with reply := .writeTaken } := by
  have h := busWriteReg_eq s .result v
  rwa [writeReg_result] at h

@[simp] theorem resetStep_statusWord (s : State) : s.resetStep.statusWord = 0x00000000 :=
  statusWord_resetWith s.config

end Sys2Proof.Machine
end

section
/-! PROOFS. The statements on dropped writes and on reset (70_reset_and_hazards.md). -/

namespace Sys2Proof.Proofs

open Sys2Proof Sys2Proof.Machine

/-- Settles O45: the dropped writes are those of `DropsWhileBusy`; STATUS, RESULT and the reserved offsets take a write
as they do when idle. -/
theorem writesWhileBusyAreDropped : Obligations.WritesWhileBusyAreDropped := by
  refine fun s a v hb ho => ⟨fun off ht => ⟨fun hdropped => ?_, fun hstatus => ?_, fun hignored => ?_⟩, fun off ht => ?_⟩
  · exact hostAccess_dropped hb ho (.inr ⟨off, hdropped, ht⟩)
  · rw [hostAccess_write_of_register ht ho, hstatus, busWriteReg_status]
  · rw [hostAccess_write_of_register ht ho]
    rcases hignored with rfl | hreserved
    · rw [busWriteReg_result]
    · rw [busWriteReg_reserved s hreserved]
  · exact hostAccess_dropped hb ho (.inl ⟨off, ht⟩)

/-- Settles O50: the step is the reset alone, and a reset restores the record of R48 for the same configuration. -/
theorem resetRestoresTheResetValues : Obligations.ResetRestoresTheResetValues := by
  intro s rest h
  have hstep : step s = .next s.turnState.resetStep := step_of_reset (List.head?_eq_some_iff.2 ⟨rest, h⟩)
  exact ⟨_, hstep, rfl, resetStep_statusWord _, resetStep_busy _, resetStep_hazard _, resetStep_rngFail _, rfl, rfl, rfl,
    rfl, rfl, rfl, rfl, rfl, rfl, rfl, rfl⟩

end Sys2Proof.Proofs
end

section
/-! PROOFS. The block's invariant, operation by operation: what a store, a completion, a host access and a reset do to
the fields it speaks of (R6, R44, R45, R311). -/

namespace Sys2Proof.Machine

/-! ### Accesses to the buffer window (R76) -/

theorem busTarget_eq_buffer {c : Config} {a : BusAccess} {off : Nat} (h : busTarget c a = .buffer off) :
    a.addr = c.bufBase + off ∧ off % widthBytes a.width = 0 ∧ off + widthBytes a.width ≤ c.bufSize := by
  unfold busTarget at h
  split_ifs at h with _ _ _ ha
  injection h with h
  subst h
  exact ⟨by omega, ha⟩

/-- A host access leaves BUF alone, or stores as many bytes as it is wide. -/
theorem hostAccess_buf_cases {a : BusAccess} {s t : State} (h : hostAccess a s = .next t) :
    t.buf = s.buf ∨
    ∃ off v, busTarget s.config a = .buffer off ∧ t.buf = s.buf.setBytes off (leBytes (widthBytes a.width) v) := by
  rcases hostAccess_next h with ⟨off, -, -, rfl⟩ | ⟨off, v, -, -, rfl⟩ | ⟨off, -, -, rfl⟩ | ⟨off, v, ht, -, rfl⟩
  · exact .inl rfl
  · left
    rcases busWriteReg_cases s off v with ⟨r, -, hw⟩ | hw
    · obtain ⟨-, -, -, -, hbuf, -⟩ := writeReg_frame s r v
      rw [hw, hbuf]
    · rw [hw]
  · left
    unfold State.busReadBuf
    split_ifs <;> rfl
  · unfold State.busWriteBuf
    split_ifs
    · exact .inl rfl
    · exact .inr ⟨off, v.toNat, ht, rfl⟩

/-! ### BUF inside its size (R45) -/

/-- A memory in canonical form whose offsets lie below `n`. -/
def Memory.FitsIn (m : Memory) (n : Nat) : Prop := m.wf ∧ ∀ c ∈ m, c.1 < n

theorem Memory.FitsIn.setBytes {m : Memory} {n a : Nat} {v : Bytes} (h : m.FitsIn n) (hfit : a + v.length ≤ n) :
    (m.setBytes a v).FitsIn n := by
  obtain ⟨hwf, hin⟩ := h
  refine ⟨Memory.setBytes_wf hwf a v, fun c hc => ?_⟩
  rcases Memory.mem_setBytes hc with ⟨-, hlt⟩ | hold
  · omega
  · exact hin c hold

theorem State.Inv.bufFits {s : State} (h : s.Inv) : s.buf.FitsIn s.config.bufSize := ⟨h.bufCanonical, h.bufInside⟩

/-- A command stores inside BUF only. -/
theorem StoresOnlyDst.fitsIn {i : Instr} {s : State} {ws : List (Nat × Bytes)} (h : StoresOnlyDst i s ws)
    (hs : s.buf.FitsIn s.config.bufSize) :
    Memory.FitsIn (ws.foldl (fun m x => m.setBytes x.1 x.2) s.buf) s.config.bufSize := by
  rcases h with rfl | ⟨-, v, rfl, -, hfit⟩
  · exact hs
  · exact hs.setBytes hfit

/-! ### The turns of a step -/

theorem ErrorCode.code_mem_completionCodes (e : ErrorCode) : e.code ∈ completionCodes := by cases e <;> decide

theorem State.Inv.turnState {s : State} (h : s.Inv) : s.turnState.Inv :=
  ⟨h.config, h.bufCanonical, h.bufInside, h.secretsZero, h.errKnown, h.errNoResult, h.rngLatched⟩

/-- An error reports a code of R311 and RESULT 0; RandomSourceFailure has to go with RNG_FAIL. -/
theorem State.Inv.complete_raise {s : State} (h : s.Inv) {e : ErrorCode} {w : Work}
    (hrng : e = .randomSourceFailure → (s.rngFail || w.rngFailed) = true) : (s.complete (.raise e w)).Inv :=
  ⟨h.config, h.bufCanonical, h.bufInside, rfl, e.code_mem_completionCodes, fun _ => rfl,
    fun hcode => hrng (ErrorCode.code_eq_randomSourceFailure hcode)⟩

theorem State.Inv.complete_success {s : State} (h : s.Inv) {i : Instr} {ws : List (Nat × Bytes)} {res : Word}
    {crc : Option Word} {w : Work} (hstore : StoresOnlyDst i s ws) : (s.complete (.success ws res crc w)).Inv := by
  obtain ⟨hwf, hin⟩ := hstore.fitsIn h.bufFits
  exact ⟨h.config, hwf, hin, rfl, List.mem_cons_self, fun hne => absurd rfl hne,
    fun hcode => absurd hcode.symm (ErrorCode.code_ne_zero _)⟩

theorem State.Inv.complete_execBody {s : State} (h : s.Inv) (i : Instr) : (s.complete (execBody i s)).Inv := by
  rcases execBody_cases i s with ⟨e, w, hb, -, hrng⟩ | ⟨ws, res, crc, w, hb, -, hstore, -⟩
  · rw [hb]
    exact h.complete_raise fun he => Bool.or_eq_true_iff.2 (hrng he)
  · rw [hb]
    exact h.complete_success hstore

theorem State.Inv.completeIllegal {s : State} (h : s.Inv) : s.completeIllegal.Inv := h.complete_raise nofun

/-- Of the fields the invariant speaks of, a host access can change BUF only. -/
theorem State.Inv.hostAccess {s t : State} (h : s.Inv) {a : BusAccess} (ha : hostAccess a s = .next t) : t.Inv := by
  obtain ⟨hconfig, hrng, herr, hres, hsec, -⟩ := hostAccess_frame ha
  have hbuf : t.buf.FitsIn s.config.bufSize := by
    rcases hostAccess_buf_cases ha with hsame | ⟨off, v, htarget, hset⟩
    · rw [hsame]
      exact h.bufFits
    · obtain ⟨-, -, hfit⟩ := busTarget_eq_buffer htarget
      rw [hset]
      exact h.bufFits.setBytes (by rwa [leBytes_length])
  obtain ⟨hwf, hin⟩ := hbuf
  exact ⟨hconfig ▸ h.config, hwf, hconfig ▸ hin, hsec ▸ h.secretsZero, herr ▸ h.errKnown,
    by rw [herr, hres]; exact h.errNoResult, by rw [herr, hrng]; exact h.rngLatched⟩

theorem inv_resetWith {c : Config} (h : c.wellFormed) : (State.resetWith c).Inv :=
  ⟨h, List.Pairwise.nil, fun _ hc => absurd hc List.not_mem_nil, rfl, List.mem_cons_self, fun _ => rfl,
    fun hcode => absurd hcode.symm (ErrorCode.code_ne_zero _)⟩

theorem State.Inv.resetStep {s : State} (h : s.Inv) : s.resetStep.Inv := by
  have hreset := inv_resetWith h.config
  exact ⟨h.config, hreset.bufCanonical, hreset.bufInside, hreset.secretsZero, hreset.errKnown, hreset.errNoResult,
    hreset.rngLatched⟩

theorem State.Inv.step {s t : State} (h : s.Inv) (hs : step s = .next t) : t.Inv := by
  rcases step_cases hs with ⟨-, -, ⟨i, -, rfl⟩ | ⟨why, -, rfl⟩⟩ | ⟨-, -, rfl⟩ | ⟨a, -, ha⟩ | ⟨-, rfl⟩
  · exact h.turnState.complete_execBody i
  · exact h.turnState.completeIllegal
  · exact h.turnState
  · exact h.turnState.hostAccess ha
  · exact h.turnState.resetStep

/-- Lining up turns and oracle answers touches no field of the invariant. -/
theorem State.Reachable.inv {s : State} (h : s.Reachable) : s.Inv := by
  induction h with
  | start c hc => exact inv_resetWith hc
  | inputs s agenda entropy _ ih =>
    exact ⟨ih.config, ih.bufCanonical, ih.bufInside, ih.secretsZero, ih.errKnown, ih.errNoResult, ih.rngLatched⟩
  | next s t _ hs ih => exact ih.step hs

end Sys2Proof.Machine
end

section
/-! PROOFS. The statements on the invariant: at reset, over a step, and in every reachable state. -/

namespace Sys2Proof.Proofs

open Sys2Proof Sys2Proof.Machine

/-- Settles O52, by the four things a step can do. -/
theorem everyStepKeepsTheInvariant : Obligations.EveryStepKeepsTheInvariant := fun _ _ h hs => h.step hs

/-- Settles O53: `State.reset` is the reset state of a configuration that meets R6. -/
theorem invariantHoldsAtReset : Obligations.InvariantHoldsAtReset :=
  ⟨fun _ hc => inv_resetWith hc, inv_resetWith (by decide)⟩

/-- Settles O54: the invariant holds in every reachable state, and names each of the fields. -/
theorem secretsAreZeroInEveryReachableState : Obligations.SecretsAreZeroInEveryReachableState := fun _ hs =>
  have h := hs.inv
  ⟨h.secretsZero, h.errKnown, h.errNoResult, h.bufCanonical, h.bufInside, h.rngLatched⟩

end Sys2Proof.Proofs
end

section
/-! PROOFS. Host accesses by their target, and the bytes a store of an integer leaves in BUF (R73, R76, R80). -/

namespace Sys2Proof.Machine

/-! ### The target of an access, as its offset in a window -/

theorem exists_offset_iff {x base : Nat} {P : Nat → Prop} :
    (∃ off, x = base + off ∧ P off) ↔ base ≤ x ∧ P (x - base) := by
  constructor
  · rintro ⟨off, rfl, hP⟩
    exact ⟨Nat.le_add_right base off, by rwa [Nat.add_sub_cancel_left]⟩
  · rintro ⟨hle, hP⟩
    exact ⟨x - base, by omega, hP⟩

theorem forall_ne_offset_iff {x base n : Nat} :
    (∀ off, off < n → x ≠ base + off) ↔ ¬(base ≤ x ∧ x < base + n) := by
  refine ⟨fun h hin => h (x - base) (by omega) (by omega), fun h off hoff hx => h (by omega)⟩

/-- The windows do not overlap, so an address in the buffer window is not in the register window. -/
theorem busTarget_eq_illegal_iff {c : Config} (hc : c.wellFormed) (a : BusAccess) :
    busTarget c a = .illegal ↔
      (∃ off, a.addr = c.regBase + off ∧ off < 256 ∧ ¬(a.width = .w32 ∧ off % 4 = 0)) ∨
      (∃ off, a.addr = c.bufBase + off ∧ off < c.bufSize ∧
        ¬(off % widthBytes a.width = 0 ∧ off + widthBytes a.width ≤ c.bufSize)) := by
  obtain ⟨-, -, -, -, hdisjoint⟩ := hc
  rw [exists_offset_iff, exists_offset_iff]
  unfold busTarget regWindowSize
  split_ifs with hreg hlegal hbuf hlegal
  · simp only [hlegal, and_self, not_true_eq_false, and_false, false_or, false_iff]
    omega
  · simp only [true_iff]
    exact .inl ⟨hreg.1, by omega, hlegal⟩
  · simp only [hlegal, and_self, not_true_eq_false, and_false, or_false, false_iff]
    omega
  · simp only [true_iff]
    exact .inr ⟨hbuf.1, by omega, hlegal⟩
  · simp only [false_iff]
    omega

theorem busTarget_eq_outside_iff (c : Config) (a : BusAccess) :
    busTarget c a = .outside ↔
      (∀ off, off < 256 → a.addr ≠ c.regBase + off) ∧ (∀ off, off < c.bufSize → a.addr ≠ c.bufBase + off) := by
  rw [forall_ne_offset_iff, forall_ne_offset_iff]
  unfold busTarget regWindowSize
  split_ifs with hreg hlegal hbuf hlegal
  · simp [hreg]
  · simp [hreg]
  · simp [hbuf]
  · simp [hbuf]
  · simp only [true_iff]
    exact ⟨hreg, hbuf⟩

/-! ### What an access answers, by its target -/

theorem hostAccess_fault_iff (a : BusAccess) (s : State) (r : Fault) :
    hostAccess a s = .fault r ↔ busTarget s.config a = .illegal := by
  cases r
  cases ht : busTarget s.config a <;> cases ho : a.op <;> simp [hostAccess, ht, ho]

theorem hostAccess_refused_iff (a : BusAccess) (s : State) (r : Refusal) :
    hostAccess a s = .refused r ↔ r = .outsideWindows ∧ busTarget s.config a = .outside := by
  cases ht : busTarget s.config a <;> cases ho : a.op <;> simp [hostAccess, ht, ho, eq_comm]

theorem hostAccess_read_of_buffer {s : State} {a : BusAccess} {off : Nat} (ht : busTarget s.config a = .buffer off)
    (ho : a.op = .read) : hostAccess a s = .next (s.busReadBuf off a.width) := by
  simp only [hostAccess, ht, ho]

theorem hostAccess_write_of_buffer {s : State} {a : BusAccess} {off : Nat} {v : Word}
    (ht : busTarget s.config a = .buffer off) (ho : a.op = .write v) :
    hostAccess a s = .next (s.busWriteBuf off a.width v) := by
  simp only [hostAccess, ht, ho]

theorem busReadBuf_of_busy {s : State} (hb : s.busy = true) (off : Nat) (w : Width) :
    s.busReadBuf off w =
      { s with reply := .readData w (truncateTo w (Config.busyRead s.busyReads)), busyReads := s.busyReads + 1 } :=
  if_pos hb

theorem busReadBuf_of_idle {s : State} (hb : s.busy = false) (off : Nat) (w : Width) :
    s.busReadBuf off w = { s with reply := .readData w (s.bufValue off w) } :=
  if_neg (by simp [hb])

theorem busWriteBuf_of_idle {s : State} (hb : s.busy = false) (off : Nat) (w : Width) (v : Word) :
    s.busWriteBuf off w v = { s.memWrite off (leBytes (widthBytes w) v.toNat) with reply := .writeTaken } := by
  rw [State.busWriteBuf, hb]
  rfl

theorem truncateTo_lt (w : Width) (v : Word) : (truncateTo w v).toNat < 256 ^ widthBytes w := by
  rw [truncateTo, BitVec.toNat_ofNat]
  exact (Nat.mod_le _ _).trans_lt (Nat.mod_lt _ (by positivity))

/-! ### The bytes of a stored integer (R73) -/

theorem leBytes_getElem (n x i : Nat) (h : i < (leBytes n x).length) :
    (leBytes n x)[i] = BitVec.ofNat 8 (x / 256 ^ i) := by
  induction n generalizing x i with
  | zero => simp [leBytes] at h
  | succ n ih =>
    cases i with
    | zero => simp [leBytes]
    | succ i => simp [leBytes, ih, Nat.div_div_eq_div_mul, ← pow_succ']

theorem leBytes_toNat_getElem (n : Nat) (v : Word) (i : Nat) (h : i < (leBytes n v.toNat).length) :
    (leBytes n v.toNat)[i] = v.extractLsb' (8 * i) 8 := by
  rw [leBytes_getElem, BitVec.extractLsb', Nat.shiftRight_eq_div_pow, pow_mul, show 2 ^ 8 = 256 from rfl]

/-- An integer stored in BUF while idle is read back as its low bytes. -/
theorem bufValue_busWriteBuf {s : State} (hb : s.busy = false) (off : Nat) (w : Width) (v : Word) :
    (s.busWriteBuf off w v).bufValue off w = BitVec.ofNat 32 (v.toNat % 256 ^ widthBytes w) := by
  have hread := State.memRead_memWrite_same s off (leBytes (widthBytes w) v.toNat)
  rw [leBytes_length] at hread
  have hsame : (s.busWriteBuf off w v).memRead off (widthBytes w) =
      (s.memWrite off (leBytes (widthBytes w) v.toNat)).memRead off (widthBytes w) := by
    rw [busWriteBuf_of_idle hb]
    exact State.memRead_congr fun _ _ _ => rfl
  rw [State.bufValue, hsame, hread, le_leBytes]

end Sys2Proof.Machine
end

section
/-! PROOFS. The statements on the host's accesses (10_state.md, 20_memory.md, 70_reset_and_hazards.md). -/

namespace Sys2Proof.Proofs

open Sys2Proof Sys2Proof.Machine

/-- Settles O46: the free value is cut to the access width, and an idle read is the bytes' value. -/
theorem bufReadsWhileBusyReturnSomeValue : Obligations.BufReadsWhileBusyReturnSomeValue := by
  refine fun s a off ht ho => ⟨fun hb => ?_, fun hb => ?_⟩
  · refine ⟨truncateTo a.width (Config.busyRead s.busyReads), truncateTo_lt _ _, ?_⟩
    rw [hostAccess_read_of_buffer ht ho, busReadBuf_of_busy hb]
  · rw [hostAccess_read_of_buffer ht ho, busReadBuf_of_idle hb]
    rfl

/-- Settles O47: an idle write is one MemWrite of the value's low bytes. -/
theorem bufAccessesAreLittleEndian : Obligations.BufAccessesAreLittleEndian := by
  intro s a off v hb ht ho
  have hlen : (leBytes (widthBytes a.width) v.toNat).length = widthBytes a.width := leBytes_length _ _
  refine ⟨s.busWriteBuf off a.width v, hostAccess_write_of_buffer ht ho, ?_, fun i hi => ?_, fun b hout => ?_, ?_⟩
  · rw [busWriteBuf_of_idle hb]
    rfl
  · rw [busWriteBuf_of_idle hb]
    exact (State.bufByte_memWrite_inside s off (hlen.symm ▸ hi)).trans (leBytes_toNat_getElem _ v i _)
  · rw [busWriteBuf_of_idle hb]
    exact State.bufByte_memWrite_outside s (hlen.symm ▸ hout)
  · have hconfig : (s.busWriteBuf off a.width v).config = s.config := by rw [busWriteBuf_of_idle hb, memWrite_config]
    rw [hostAccess_read_of_buffer (off := off) (hconfig ▸ ht) rfl, busReadBuf_of_idle (by rw [busWriteBuf_busy, hb]),
      bufValue_busWriteBuf hb]

/-- Settles O48: what an access answers is decided by its target. -/
theorem busErrorsAreTheAccessesR76Forbids : Obligations.BusErrorsAreTheAccessesR76Forbids := by
  refine fun s a hc => ⟨?_, ?_, fun hfault hrefused => hostAccess_answers ?_⟩
  · rw [hostAccess_fault_iff, busTarget_eq_illegal_iff hc]
  · rw [hostAccess_refused_iff, busTarget_eq_outside_iff, eq_self_iff_true, true_and]
  · rw [ne_eq, hostAccess_fault_iff] at hfault
    rw [ne_eq, hostAccess_refused_iff, eq_self_iff_true, true_and] at hrefused
    cases ht : busTarget s.config a with
    | register off => simp [Turn.safe, ht]
    | buffer off => simp [Turn.safe, ht]
    | illegal => exact absurd ht hfault
    | outside => exact absurd ht hrefused

/-- Settles O41: CMD is the register at REG_BASE. -/
theorem cmdWriteIssuesTheCommand : Obligations.CmdWriteIssuesTheCommand := by
  refine fun s w => ⟨fun hb => hostAccess_write_cmd_idle hb w, fun hb => ?_, hostAccess_read_reg s .cmd⟩
  have hdrop : DropsWhileBusy s.config { addr := s.config.regBase, width := .w32, op := .write w } :=
    .inr ⟨0x00, List.mem_cons_self, busTarget_register s.config (off := 0x00) (.write w) (by decide) rfl⟩
  exact hostAccess_dropped hb rfl hdrop

/-- Settles O42: the seven registers at their offsets. -/
theorem operandRegistersStoreAndReadBack : Obligations.OperandRegistersStoreAndReadBack := by
  refine fun s v => ⟨fun hb => ?_, fun hb off hoff => ?_, ?_⟩
  · have hidle : ∀ r, hostAccess { addr := s.config.regBase + regOffset r, width := .w32, op := .write v } s =
        .next { s.writeRegIdle r v with reply := .writeTaken } := fun r => by
      rw [hostAccess_write_reg, State.writeReg, hb]
      rfl
    exact ⟨hidle .crcState, hidle .srcAddr, hidle .srcLen, hidle .keyAddr, hidle .keyLen, hidle .dstAddr, hidle .dstCap⟩
  · have hlegal : off < 256 ∧ off % 4 = 0 := by revert off; decide
    have hdrop := busTarget_register s.config (.write v) hlegal.1 hlegal.2
    exact hostAccess_dropped hb rfl (.inr ⟨off, List.mem_cons_of_mem _ hoff, hdrop⟩)
  · simp only [List.forall_mem_cons]
    exact ⟨hostAccess_read_reg s .crcState, hostAccess_read_reg s .srcAddr, hostAccess_read_reg s .srcLen,
      hostAccess_read_reg s .keyAddr, hostAccess_read_reg s .keyLen, hostAccess_read_reg s .dstAddr,
      hostAccess_read_reg s .dstCap, fun _ hx => absurd hx List.not_mem_nil⟩

end Sys2Proof.Proofs
end

section
/-! PROOFS. Command words as bytes (R73, R110), and a step by the first turn of the agenda (R85, R130). -/

namespace Sys2Proof.Machine

/-! ### Command words as bytes -/

/-- The low bytes of an integer stand in front of those of the rest of it. -/
theorem leBytes_add (m n x : Nat) : leBytes (m + n) x = leBytes m x ++ leBytes n (x / 256 ^ m) := by
  induction m generalizing x with
  | zero => simp [leBytes]
  | succ m ih => rw [Nat.add_right_comm, leBytes, ih, Nat.div_div_eq_div_mul, ← pow_succ']; rfl

/-- A decoder takes the first four bytes, whatever follows (R101). -/
theorem decodeBytes_leBytes_append (x : Nat) (rest : Bytes) :
    decodeBytes (leBytes 4 x ++ rest) = some (decode (BitVec.ofNat 32 x), rest) := by
  have hword : BitVec.ofNat 32 (le (leBytes 4 x)) = BitVec.ofNat 32 x := by
    rw [le_leBytes]
    exact BitVec.eq_of_toNat_eq (by simp)
  exact congrArg (fun w => some (decode w, rest)) hword

theorem decode_of_decodeTableWord {nbits w : Nat} {i : Instr} (h : decodeTableWord nbits w = some i) :
    decode (BitVec.ofNat 32 (w % 2 ^ nbits)) = .command i := by
  obtain ⟨n, hn⟩ : ∃ n, max 4 ((nbits + 7) / 8) = 4 + n := ⟨max 4 ((nbits + 7) / 8) - 4, by omega⟩
  rw [decodeTableWord, hn, leBytes_add, decodeBytes_leBytes_append] at h
  cases hd : decode (BitVec.ofNat 32 (w % 2 ^ nbits)) with
  | command j =>
    simp only [hd, Option.some.injEq] at h
    rw [h]
  | illegal why => simp [hd] at h

/-! ### A step by its first turn -/

theorem step_of_nil {s : State} (h : s.agenda = []) : step s = engineTurn s := by
  simp only [step, nextTurn, h]

theorem step_of_cons {s : State} {turn : Turn} {rest : List Turn} (h : s.agenda = turn :: rest) :
    step s = takeTurn turn { s with agenda := rest } := by
  simp only [step, nextTurn, h]

theorem engineTurn_command {s : State} {i : Instr} (hb : s.busy = true) (hd : decode s.cmd = .command i) :
    engineTurn s = exec i s := by
  simp only [engineTurn, hb, if_true, hd]

theorem engineTurn_idle {s : State} (hb : s.busy = false) : engineTurn s = .next s := by
  rw [engineTurn, hb]
  rfl

/-- No command and no illegal word stops the engine (R310). -/
theorem engineTurn_answers (s : State) : ∃ t, engineTurn s = .next t := by
  cases hb : s.busy with
  | false => exact ⟨s, engineTurn_idle hb⟩
  | true =>
    cases hd : decode s.cmd with
    | command i => exact ⟨_, (engineTurn_command hb hd).trans (exec_eq i s)⟩
    | illegal why => exact ⟨_, engineTurn_illegal hb hd⟩

/-- A pending command is gone after the engine's turn. -/
theorem engineTurn_completes {s t : State} (hb : s.busy = true) (h : engineTurn s = .next t) : t.busy = false := by
  cases hd : decode s.cmd with
  | command i =>
    rw [engineTurn_command hb hd] at h
    rw [eq_complete_of_exec h, complete_busy]
  | illegal why =>
    rw [engineTurn_illegal hb hd] at h
    injection h with h
    rw [← h, State.completeIllegal, complete_busy]

/-- A step that stops has taken a host's turn, which stopped. -/
theorem step_stops {s : State} (h : ∀ t, step s ≠ .next t) :
    ∃ a rest, s.agenda = .host a :: rest ∧ step s = hostAccess a { s with agenda := rest } := by
  cases hagenda : s.agenda with
  | nil =>
    obtain ⟨t, ht⟩ := engineTurn_answers s
    exact absurd ((step_of_nil hagenda).trans ht) (h t)
  | cons turn rest =>
    have hstep := step_of_cons hagenda
    cases turn with
    | host a => exact ⟨a, rest, rfl, hstep⟩
    | engine =>
      obtain ⟨t, ht⟩ := engineTurn_answers { s with agenda := rest }
      exact absurd (hstep.trans ht) (h t)
    | reset => exact absurd hstep (h _)

@[simp] theorem complete_config (s : State) (r : ExecResult) : (s.complete r).config = s.config := by
  obtain ⟨_ | _, w⟩ := r <;> rfl

@[simp] theorem complete_agenda (s : State) (r : ExecResult) : (s.complete r).agenda = s.agenda := by
  obtain ⟨_ | _, w⟩ := r <;> rfl

/-- A step takes one turn off the agenda and leaves the parameters (R6). -/
theorem step_config_agenda {s t : State} (h : step s = .next t) :
    t.config = s.config ∧ t.agenda = s.agenda.tail := by
  rcases step_cases h with ⟨-, -, ⟨i, -, rfl⟩ | ⟨why, -, rfl⟩⟩ | ⟨-, -, rfl⟩ | ⟨a, -, ha⟩ | ⟨-, rfl⟩
  · exact ⟨complete_config _ _, complete_agenda _ _⟩
  · exact ⟨complete_config _ _, complete_agenda _ _⟩
  · exact ⟨rfl, rfl⟩
  · obtain ⟨hconfig, -, -, -, -, hagenda, -⟩ := hostAccess_frame ha
    exact ⟨hconfig, hagenda⟩
  · exact ⟨rfl, rfl⟩

theorem agendaSafe_iff {s : State} : s.agendaSafe = true ↔ ∀ turn ∈ s.agenda, Turn.safe s.config turn = true :=
  List.all_eq_true

theorem agendaSafe_of_step {s t : State} (hsafe : s.agendaSafe = true) (h : step s = .next t) :
    t.agendaSafe = true := by
  obtain ⟨hconfig, hagenda⟩ := step_config_agenda h
  rw [agendaSafe_iff] at hsafe ⊢
  rw [hconfig, hagenda]
  exact fun turn hturn => hsafe turn (List.mem_of_mem_tail hturn)

theorem step_answers_of_agendaSafe {s : State} (hsafe : s.agendaSafe = true) : ∃ t, step s = .next t := by
  by_contra hstops
  obtain ⟨a, rest, hagenda, hstep⟩ := step_stops fun t ht => hstops ⟨t, ht⟩
  have hturn : Turn.safe s.config (.host a) = true := agendaSafe_iff.1 hsafe _ (hagenda ▸ List.mem_cons_self)
  obtain ⟨t, ht⟩ := hostAccess_answers (s := { s with agenda := rest }) hturn
  exact hstops ⟨t, hstep.trans ht⟩

/-! ### Runs up to a completion (R140) -/

/-- The engine has the next turn. -/
def State.EngineIsNext (s : State) : Prop := s.agenda = [] ∨ s.agenda.head? = some .engine

theorem step_of_engineIsNext {s : State} (h : s.EngineIsNext) : step s = engineTurn s.turnState := by
  rcases h with hnil | hhead
  · rw [step_of_nil hnil, State.turnState, hnil, List.tail_nil, ← hnil]
  · obtain ⟨rest, hrest⟩ := List.head?_eq_some_iff.1 hhead
    rw [step_of_cons hrest, State.turnState, hrest, List.tail_cons]
    rfl

/-- A safe host turn while BUSY = 1 is answered and leaves the pending command and its operands (R90, R346). -/
theorem step_host_of_busy {s : State} {a : BusAccess} {rest : List Turn} (hb : s.busy = true)
    (hsafe : s.agendaSafe = true) (hagenda : s.agenda = .host a :: rest) :
    ∃ t, step s = .next t ∧ t.agendaSafe = true ∧
      t = { s with agenda := rest, hazard := t.hazard, reply := t.reply, busyReads := t.busyReads } := by
  obtain ⟨t, ht⟩ := step_answers_of_agendaSafe hsafe
  have haccess : hostAccess a { s with agenda := rest } = .next t := (step_of_cons hagenda).symm.trans ht
  exact ⟨t, ht, agendaSafe_of_step hsafe ht, hostAccess_busy (s := { s with agenda := rest }) hb haccess⟩

/-- With no reset lined up, the engine's turn comes after host turns only, which leave the pending command. -/
theorem exists_run_to_engine {s : State} (hb : s.busy = true) (hsafe : s.agendaSafe = true)
    (hreset : ∀ turn ∈ s.agenda, turn ≠ .reset) :
    ∃ (k : Nat) (u : State), k ≤ s.agenda.length ∧ Sys2Proof.core.run k s = .next u ∧ u.EngineIsNext ∧
      u = { s with agenda := s.agenda.drop k, hazard := u.hazard, reply := u.reply, busyReads := u.busyReads } := by
  induction hagenda : s.agenda generalizing s with
  | nil => exact ⟨0, s, Nat.zero_le _, rfl, .inl hagenda, by rw [List.drop_nil, ← hagenda]⟩
  | cons turn rest ih =>
    cases turn with
    | engine =>
      exact ⟨0, s, Nat.zero_le _, rfl, .inr (by rw [hagenda, List.head?_cons]), by rw [List.drop_zero, ← hagenda]⟩
    | reset => exact absurd rfl (hreset .reset (hagenda ▸ List.mem_cons_self))
    | host a =>
      obtain ⟨t, hstep, hsafe', ht⟩ := step_host_of_busy hb hsafe hagenda
      have hrest : t.agenda = rest := by rw [ht]
      obtain ⟨k, u, hk, hrun, hnext, hu⟩ := ih (s := t) (by rw [ht]; exact hb) hsafe'
        (fun turn hturn => hreset turn (hagenda ▸ List.mem_cons_of_mem _ (hrest ▸ hturn))) hrest
      refine ⟨k + 1, u, Nat.succ_le_succ hk, (core_run_succ k hstep).trans hrun, hnext, ?_⟩
      rw [hu, ht]
      rfl

/-- One step completes the pending command when the engine has the turn. -/
theorem exists_run_of_engineIsNext {s : State} (hb : s.busy = true) (hnext : s.EngineIsNext) :
    ∃ (k : Nat) (t : State), k ≤ s.agenda.length + 1 ∧ Sys2Proof.core.run k s = .next t ∧ t.busy = false := by
  obtain ⟨t, ht⟩ := engineTurn_answers s.turnState
  exact ⟨1, t, Nat.le_add_left 1 _, core_run_succ 0 ((step_of_engineIsNext hnext).trans ht),
    engineTurn_completes (s := s.turnState) hb ht⟩

/-- However the lined-up turns mix, BUSY is 0 by the time they and one engine's turn are taken. -/
theorem exists_run_to_idle {s : State} (hb : s.busy = true) (hsafe : s.agendaSafe = true) :
    ∃ (k : Nat) (t : State), k ≤ s.agenda.length + 1 ∧ Sys2Proof.core.run k s = .next t ∧ t.busy = false := by
  induction hagenda : s.agenda generalizing s with
  | nil => exact hagenda ▸ exists_run_of_engineIsNext hb (.inl hagenda)
  | cons turn rest ih =>
    cases turn with
    | engine => exact hagenda ▸ exists_run_of_engineIsNext hb (.inr (by rw [hagenda, List.head?_cons]))
    | reset => exact ⟨1, _, Nat.le_add_left 1 _, core_run_succ 0 (step_of_cons hagenda), resetStep_busy _⟩
    | host a =>
      obtain ⟨t, hstep, hsafe', ht⟩ := step_host_of_busy hb hsafe hagenda
      obtain ⟨k, u, hk, hrun, hidle⟩ := ih (s := t) (by rw [ht]; exact hb) hsafe' (by rw [ht])
      exact ⟨k + 1, u, Nat.succ_le_succ hk, (core_run_succ k hstep).trans hrun, hidle⟩

end Sys2Proof.Machine
end

section
/-! PROOFS. The statements on command words, on the step, and on the engine's turns (30_encoding.md,
40_command_engine.md, 60_exceptions.md). -/

namespace Sys2Proof.Proofs

open Sys2Proof Sys2Proof.Machine

/-- Settles O2: a decoder reads the four bytes of a command's word as that word. -/
theorem decodeOfEncodeIsTheCommand : Obligations.DecodeOfEncodeIsTheCommand := by
  refine ⟨fun i rest _ => ⟨decode_encode i, ?_, ?_⟩, by decide⟩
  · rw [encodeBytes, decodeBytes_leBytes_append, BitVec.ofNat_toNat, BitVec.setWidth_eq, decode_encode]
  · cases i <;> decide

/-- Settles O4: each case is the turn that the agenda names. -/
theorem stepRunsTheNextTurn : Obligations.StepRunsTheNextTurn := by
  refine fun s rest => ⟨fun i hb hd => ⟨fun h => ?_, fun h => ?_⟩, fun hb => ⟨fun h => ?_, fun h => ?_⟩,
    fun a h => step_of_cons h, fun h => step_of_cons h⟩
  · exact (step_of_cons h).trans (engineTurn_command hb hd)
  · exact (step_of_nil h).trans (engineTurn_command hb hd)
  · exact (step_of_cons h).trans (engineTurn_idle hb)
  · exact (step_of_nil h).trans (engineTurn_idle hb)

/-- Settles O5: the engine decodes the word that stands in CMD. -/
theorem placedWordRunsNext : Obligations.PlacedWordRunsNext := by
  intro s nbits w i h
  have hturn : step (s.withFetchWord nbits w) = engineTurn (s.issue (BitVec.ofNat 32 (w % 2 ^ nbits))) :=
    step_of_cons (s := s.withFetchWord nbits w) rfl
  exact hturn.trans (engineTurn_command rfl (decode_of_decodeTableWord h))

/-- Settles O49: a stop is the answer of a host access, which its target decides. -/
theorem onlyHostAccessesStopAStep : Obligations.OnlyHostAccessesStopAStep := by
  refine fun s => ⟨fun r h => ?_, fun r h => ?_, fun hsafe => ?_⟩
  · obtain ⟨a, rest, hagenda, hstep⟩ := step_stops (s := s) (by simp [h])
    exact ⟨a, rest, hagenda, (hostAccess_fault_iff a { s with agenda := rest } r).1 (hstep.symm.trans h)⟩
  · obtain ⟨a, rest, hagenda, hstep⟩ := step_stops (s := s) (by simp [h])
    obtain ⟨hr, htarget⟩ := (hostAccess_refused_iff a { s with agenda := rest } r).1 (hstep.symm.trans h)
    exact ⟨hr, a, rest, hagenda, htarget⟩
  · obtain ⟨t, ht⟩ := step_answers_of_agendaSafe hsafe
    exact ⟨t, ht, agendaSafe_of_step hsafe ht⟩

/-- Settles O59: host turns lead to the engine's turn, and the engine completes what is pending. -/
theorem everyPendingCommandCompletes : Obligations.EveryPendingCommandCompletes := by
  refine ⟨fun s hb hsafe hreset => ?_, fun s => exists_run_to_idle⟩
  obtain ⟨k, u, hk, hrun, hnext, hu⟩ := exists_run_to_engine hb hsafe hreset
  have hbusy : u.turnState.busy = true := (congrArg State.busy hu).trans hb
  have hcmd : u.turnState.cmd = s.cmd := (congrArg State.cmd hu :)
  have hturn : u.turnState = { u with agenda := s.agenda.drop (k + 1) } := by
    have hagenda : u.agenda = s.agenda.drop k := congrArg State.agenda hu
    rw [← List.tail_drop, ← hagenda]
    rfl
  obtain ⟨t, ht⟩ := engineTurn_answers u.turnState
  refine ⟨k, u, t, hk, hrun, hu, (step_of_engineIsNext hnext).trans ht, engineTurn_completes hbusy ht,
    fun i hd => ?_, fun why hd => ?_⟩
  · rw [← hturn, ← engineTurn_command hbusy (hcmd.symm ▸ hd), ht]
  · rw [engineTurn_illegal hbusy (hcmd.symm ▸ hd), hturn, completeIllegal_eq] at ht
    injection ht with ht
    exact ht.symm

end Sys2Proof.Proofs
end

section
/-! PROOFS. The frame of a command: what a completion leaves as it was, which commands write CRC_STATE, which ask the
oracle, and which codes a command's body can end with (R131, R135, R314). -/

namespace Sys2Proof.Machine

/-! ### The completion step, field by field -/

/-- The fields that no completion writes (R131). -/
theorem complete_frame (s : State) (r : ExecResult) :
    (s.complete r).cmd = s.cmd ∧ (s.complete r).srcAddr = s.srcAddr ∧ (s.complete r).srcLen = s.srcLen ∧
    (s.complete r).keyAddr = s.keyAddr ∧ (s.complete r).keyLen = s.keyLen ∧ (s.complete r).dstAddr = s.dstAddr ∧
    (s.complete r).dstCap = s.dstCap ∧ (s.complete r).reply = s.reply ∧ (s.complete r).busyReads = s.busyReads ∧
    (s.complete r).resets = s.resets := by
  obtain ⟨_ | _, w⟩ := r <;> exact ⟨rfl, rfl, rfl, rfl, rfl, rfl, rfl, rfl, rfl, rfl⟩

@[simp] theorem complete_secrets (s : State) (r : ExecResult) : (s.complete r).secrets = Secrets.zero := by
  obtain ⟨_ | _, w⟩ := r <;> rfl

@[simp] theorem complete_entropy (s : State) (r : ExecResult) : (s.complete r).entropy = r.work.entropy := by
  obtain ⟨_ | _, w⟩ := r <;> rfl

@[simp] theorem complete_draws (s : State) (r : ExecResult) : (s.complete r).draws = r.work.draws := by
  obtain ⟨_ | _, w⟩ := r <;> rfl

/-- The CRC_STATE an outcome gives, if any (R132). -/
def ExecOutcome.newCrc : ExecOutcome → Option Word
  | .ok _ _ crc => crc
  | .err _ => none

/-- The code an outcome leaves in ERR (R131). -/
def ExecOutcome.code : ExecOutcome → Byte
  | .ok _ _ _ => 0x00
  | .err e => e.code

/-- The RESULT an outcome gives: 0 on an error (R131, R312). -/
def ExecOutcome.resultWord : ExecOutcome → Word
  | .ok _ res _ => res
  | .err _ => 0x00000000

@[simp] theorem complete_result (s : State) (r : ExecResult) : (s.complete r).result = r.outcome.resultWord := by
  obtain ⟨_ | _, w⟩ := r <;> rfl

@[simp] theorem complete_crcState (s : State) (r : ExecResult) :
    (s.complete r).crcState = r.outcome.newCrc.getD s.crcState := by
  obtain ⟨_ | _, w⟩ := r <;> rfl

@[simp] theorem complete_err (s : State) (r : ExecResult) : (s.complete r).err = r.outcome.code := by
  obtain ⟨_ | _, w⟩ := r <;> rfl

/-! ### Who writes CRC_STATE, who draws -/

/-- Only CRC_INIT and CRC_UPDATE give a CRC_STATE (R136). -/
theorem newCrc_execBody {i : Instr} (hinit : i ≠ .crcInit) (hupdate : i ≠ .crcUpdate) (s : State) :
    (execBody i s).outcome.newCrc = none := by
  cases hp : prologue i s with
  | some e => rw [execBody_of_prologue_some hp]; rfl
  | none =>
    cases i with
    | crcInit => exact absurd rfl hinit
    | crcUpdate => exact absurd rfl hupdate
    | crcFinalize => rw [execBody, crcFinalizeBody, afterPrologue_none hp]; rfl
    | crcCompute => rw [execBody, crcComputeBody, afterPrologue_none hp]; rfl
    | derivePublic => rw [execBody, derivePublicBody, afterPrologue_none hp]; rfl
    | keygen => rw [execBody, keygenBody, afterPrologue_none hp]; split <;> rfl
    | encrypt => rw [execBody, encryptBody, afterPrologue_none hp]; split <;> rfl
    | decrypt => rw [execBody, decryptBody, afterPrologue_none hp]; split <;> rfl

/-- The same oracle's side of what `Exec` works on, the failure flag of R137 included. -/
structure Work.SameOracle (w w' : Work) : Prop where
  entropy   : w.entropy = w'.entropy
  draws     : w.draws = w'.draws
  rngFailed : w.rngFailed = w'.rngFailed

/-- Only KEYGEN and ENCRYPT draw (R193, R272). -/
theorem sameOracle_execBody {i : Instr} (hkeygen : i ≠ .keygen) (hencrypt : i ≠ .encrypt) (s : State) :
    (execBody i s).work.SameOracle s.work := by
  cases hp : prologue i s with
  | some e => rw [execBody_of_prologue_some hp]; exact ⟨rfl, rfl, rfl⟩
  | none =>
    cases i with
    | keygen => exact absurd rfl hkeygen
    | encrypt => exact absurd rfl hencrypt
    | crcInit => rw [execBody, crcInitBody, afterPrologue_none hp]; exact ⟨rfl, rfl, rfl⟩
    | crcUpdate => rw [execBody, crcUpdateBody, afterPrologue_none hp]; exact ⟨rfl, rfl, rfl⟩
    | crcFinalize => rw [execBody, crcFinalizeBody, afterPrologue_none hp]; exact ⟨rfl, rfl, rfl⟩
    | crcCompute => rw [execBody, crcComputeBody, afterPrologue_none hp]; exact ⟨rfl, rfl, rfl⟩
    | derivePublic => rw [execBody, derivePublicBody, afterPrologue_none hp]; exact ⟨rfl, rfl, rfl⟩
    | decrypt =>
      rw [execBody, decryptBody_work hp]
      obtain ⟨w', hentropy, hdraws, hfailed, hcases⟩ :=
        openEnvelope_cases s.config.hkdfInfo s.work s.srcBytes s.keyBytes
      have hwork : (openEnvelope s.config.hkdfInfo s.work s.srcBytes s.keyBytes).2 = w' := by
        rcases hcases with ⟨-, h⟩ | ⟨-, -, h⟩ | ⟨-, -, -, h⟩ | ⟨-, -, -, h⟩ <;> rw [h]
      rw [hwork]
      exact ⟨hentropy, hdraws, hfailed⟩

/-! ### What a command does to BUF -/

/-- A byte of BUF keeps its value over a command unless the command succeeds and the byte lies in its dstR. -/
theorem bufByte_complete_execBody {i : Instr} {s : State} {a : Nat}
    (hout : ¬((s.complete (execBody i s)).err = 0x00 ∧ writesDst i = true ∧ s.dstAddr.toNat ≤ a ∧
      a < s.dstAddr.toNat + outlen i s)) :
    (s.complete (execBody i s)).bufByte a = s.bufByte a := by
  rcases execBody_cases i s with ⟨e, w, hb, -⟩ | ⟨ws, res, crc, w, hb, -, hstore, -⟩
  · rw [hb]
    rfl
  · rw [hb] at hout ⊢
    rcases hstore with rfl | ⟨hdst, v, rfl, hlen, -⟩
    · rfl
    · refine State.bufByte_memWrite_outside s (a := s.dstAt) (v := v) ?_
      have hbyte : ¬(s.dstAddr.toNat ≤ a ∧ a < s.dstAddr.toNat + outlen i s) := fun hin => hout ⟨rfl, hdst, hin⟩
      rw [hlen, State.dstAt]
      omega

/-! ### The codes of a body (R314) -/

theorem code_afterPrologue_mem {i : Instr} {s : State} {r : ExecResult} {codes : List Byte}
    (hprologue : ∀ e, prologue i s = some e → e.code ∈ codes) (hbody : r.outcome.code ∈ codes) :
    (afterPrologue i s r).outcome.code ∈ codes := by
  cases hp : prologue i s with
  | some e => rw [afterPrologue_some hp]; exact hprologue e hp
  | none => rwa [afterPrologue_none hp]

theorem sealEnvelope_err {info : Bytes} {b : Bool} {w w' : Work} {p pk : Bytes} {e : ErrorCode}
    (h : sealEnvelope info b w p pk = (.err e, w')) : e = .randomSourceFailure ∨ e = .invalidPeerPoint := by
  rcases sealEnvelope_cases info b w p pk with ⟨-, hg⟩ | ⟨-, -, hg⟩ | ⟨-, raw, -, -, hpoint | hdraw | hok⟩
  · rw [hg] at h; cases h; exact .inl rfl
  · rw [hg] at h; cases h; exact .inl rfl
  · obtain ⟨-, w'', hg, -⟩ := hpoint
    rw [hg] at h; cases h; exact .inr rfl
  · obtain ⟨-, -, w'', hg, -⟩ := hdraw
    rw [hg] at h; cases h; exact .inl rfl
  · obtain ⟨-, nonce, -, -, w'', hg, -⟩ := hok
    rw [hg] at h; cases h

theorem openEnvelope_err {info : Bytes} {w w' : Work} {e sk : Bytes} {err : ErrorCode}
    (h : openEnvelope info w e sk = (.err err, w')) :
    err = .malformedEnvelope ∨ err = .invalidPeerPoint ∨ err = .authenticationFailed := by
  obtain ⟨w'', -, -, -, ⟨-, hg⟩ | ⟨-, -, hg⟩ | ⟨-, -, -, hg⟩ | ⟨-, -, -, hg⟩⟩ := openEnvelope_cases info w e sk
  · rw [hg] at h; cases h; exact .inl rfl
  · rw [hg] at h; cases h; exact .inr (.inl rfl)
  · rw [hg] at h; cases h; exact .inr (.inr rfl)
  · rw [hg] at h; cases h

/-- The codes R314 marks as possible for a command. -/
def possibleCodes : Instr → List Byte
  | .crcInit      => [0x00]
  | .crcUpdate    => [0x00, 0x11]
  | .crcFinalize  => [0x00]
  | .crcCompute   => [0x00, 0x11]
  | .keygen       => [0x00, 0x03, 0x06, 0x11]
  | .derivePublic => [0x00, 0x01, 0x03, 0x11]
  | .encrypt      => [0x00, 0x01, 0x02, 0x03, 0x06, 0x11]
  | .decrypt      => [0x00, 0x01, 0x02, 0x03, 0x04, 0x05, 0x11]

theorem zero_mem_possibleCodes (i : Instr) : 0x00 ∈ possibleCodes i := by cases i <;> decide

/-- Each check of the prologue is marked for the commands it applies to (R135). -/
theorem code_mem_possibleCodes_of_prologue {i : Instr} {s : State} {e : ErrorCode} (h : prologue i s = some e) :
    e.code ∈ possibleCodes i := by
  have hcheck := prologue_eq_some h
  clear h
  rcases hcheck with ⟨rfl, rfl, -⟩ | ⟨rfl, hkey⟩ | ⟨rfl, hdst⟩ | ⟨rfl, hregion⟩
  · decide
  · cases i <;> revert hkey <;> decide
  · cases i <;> revert hdst <;> decide
  · cases i <;> revert hregion <;> decide

/-- What a command's own part raises, once its checks have passed, is marked for it. -/
theorem code_execBody_mem_possibleCodes (i : Instr) (s : State) : (execBody i s).outcome.code ∈ possibleCodes i := by
  have hchecks : ∀ e, prologue i s = some e → e.code ∈ possibleCodes i := fun e =>
    code_mem_possibleCodes_of_prologue
  cases i with
  | crcInit | crcUpdate | crcFinalize | crcCompute | derivePublic =>
    exact code_afterPrologue_mem hchecks (zero_mem_possibleCodes _)
  | keygen =>
    refine code_afterPrologue_mem hchecks ?_
    split
    · exact (by decide : ErrorCode.randomSourceFailure.code ∈ possibleCodes .keygen)
    · exact zero_mem_possibleCodes _
  | encrypt =>
    refine code_afterPrologue_mem hchecks ?_
    split
    · next e w hseal =>
      rcases sealEnvelope_err hseal with rfl | rfl
      · exact (by decide : ErrorCode.randomSourceFailure.code ∈ possibleCodes .encrypt)
      · exact (by decide : ErrorCode.invalidPeerPoint.code ∈ possibleCodes .encrypt)
    · exact zero_mem_possibleCodes _
  | decrypt =>
    refine code_afterPrologue_mem hchecks ?_
    split
    · next e w hopen =>
      rcases openEnvelope_err hopen with rfl | rfl | rfl
      · exact (by decide : ErrorCode.malformedEnvelope.code ∈ possibleCodes .decrypt)
      · exact (by decide : ErrorCode.invalidPeerPoint.code ∈ possibleCodes .decrypt)
      · exact (by decide : ErrorCode.authenticationFailed.code ∈ possibleCodes .decrypt)
    · exact zero_mem_possibleCodes _

end Sys2Proof.Machine
end

section
/-! PROOFS. The statements on what a command changes and reports (40_command_engine.md, 60_exceptions.md). -/

namespace Sys2Proof.Proofs

open Sys2Proof Sys2Proof.Machine

/-- Settles O6: a command is one completion, whose frame is that of R131; its outcome gives CRC_STATE, its draws the
oracle's side, and its stores the bytes of BUF. -/
theorem commandsChangeOnlyWhatTheirRulesName : Obligations.CommandsChangeOnlyWhatTheirRulesName := by
  intro i s
  obtain ⟨hcmd, hsrc, hsrcLen, hkey, hkeyLen, hdst, hcap, hreply, hreads, hresets⟩ := complete_frame s (execBody i s)
  refine ⟨_, exec_eq i s, complete_busy _ _, complete_secrets _ _, complete_config _ _, hcmd, complete_hazard _ _,
    hsrc, hsrcLen, hkey, hkeyLen, hdst, hcap, complete_agenda _ _, hreply, hreads, hresets, fun hinit hupdate => ?_,
    fun hkeygen hencrypt => ?_, fun a => bufByte_complete_execBody⟩
  · rw [complete_crcState, newCrc_execBody hinit hupdate, Option.getD_none]
  · obtain ⟨hentropy, hdraws, hfailed⟩ := sameOracle_execBody hkeygen hencrypt s
    refine ⟨?_, (complete_entropy _ _).trans hentropy, (complete_draws _ _).trans hdraws⟩
    rw [complete_rngFail, hfailed]
    exact Bool.or_false _

/-- Settles O8: the codes of the prologue's checks and of each command's own part. -/
theorem commandsReportOnlyTheirCodes : Obligations.CommandsReportOnlyTheirCodes := by
  intro i s t h
  have hcode := code_execBody_mem_possibleCodes i s
  rw [← complete_err s, ← eq_complete_of_exec h] at hcode
  cases i <;> exact hcode

end Sys2Proof.Proofs
end

section
/-! PROOFS. The bit-serial CRC as a linear map (R150 to R152), and MemRead over adjacent regions (R82). -/

namespace Sys2Proof.Machine

/-! ### One bit of the CRC -/

theorem crcShift_of_even {c : Word} (h : c.getLsbD 0 = false) : crcShift c = c >>> 1 := by
  rw [crcShift, h, if_neg Bool.false_ne_true]

theorem bitVec_xor_left_comm {w : Nat} (x y z : BitVec w) : x ^^^ (y ^^^ z) = y ^^^ (x ^^^ z) := by
  rw [← BitVec.xor_assoc, BitVec.xor_comm x y, BitVec.xor_assoc]

/-- Over GF(2) the shift and the conditional polynomial are both linear. -/
theorem crcShift_xor (x y : Word) : crcShift (x ^^^ y) = crcShift x ^^^ crcShift y := by
  unfold crcShift
  rw [BitVec.getLsbD_xor, BitVec.ushiftRight_xor_distrib]
  cases x.getLsbD 0 <;> cases y.getLsbD 0 <;> simp [BitVec.xor_assoc, BitVec.xor_comm, bitVec_xor_left_comm]

theorem crcShift_iterate_xor (n : Nat) (x y : Word) :
    crcShift^[n] (x ^^^ y) = crcShift^[n] x ^^^ crcShift^[n] y := by
  induction n generalizing x y with
  | zero => rfl
  | succ n ih => rw [Function.iterate_succ_apply, Function.iterate_succ_apply, Function.iterate_succ_apply,
      crcShift_xor, ih]

/-- While the bits that leave are zero, the polynomial never enters. -/
theorem crcShift_iterate_of_low_zero {n : Nat} {x : Word} (h : ∀ i < n, x.getLsbD i = false) :
    crcShift^[n] x = x >>> n := by
  induction n generalizing x with
  | zero => rfl
  | succ n ih =>
    have hnext : ∀ i < n, (x >>> 1).getLsbD i = false := fun i hi => by
      rw [BitVec.getLsbD_ushiftRight]
      exact h (1 + i) (by omega)
    rw [Function.iterate_succ_apply, crcShift_of_even (h 0 (by omega)), ih hnext, ← BitVec.shiftRight_add,
      Nat.add_comm]

theorem getLsbD_low_byte_mask (i : Nat) : (0xFF : Word).getLsbD i = decide (i < 8) := by
  by_cases hi : i < 32
  · revert i; decide
  · rw [BitVec.getLsbD_of_ge _ _ (by omega), decide_eq_false (by omega)]

/-- A word is its low byte and the rest. -/
theorem low_byte_xor_rest (x : Word) : (x &&& 0xFF) ^^^ (x &&& ~~~0xFF) = x := by
  ext i hi
  simp only [BitVec.getElem_xor, BitVec.getElem_and, BitVec.getElem_not]
  cases x[i] <;> cases (0xFF : Word)[i] <;> rfl

/-- The byte only reaches the bits that the table takes in. -/
theorem rest_of_byte_shifted (st : Word) (b : Byte) : ((st ^^^ b.setWidth 32) &&& ~~~0xFF) >>> 8 = st >>> 8 := by
  ext i hi
  simp only [BitVec.getElem_ushiftRight, BitVec.getLsbD_and, BitVec.getLsbD_xor, BitVec.getLsbD_not,
    BitVec.getLsbD_setWidth, getLsbD_low_byte_mask, BitVec.getLsbD_of_ge b (8 + i) (by omega)]
  by_cases hlt : 8 + i < 32
  · simp [hlt]
  · simp [BitVec.getLsbD_of_ge st (8 + i) (by omega)]

theorem crcByte_eq_iterate (st : Word) (b : Byte) : crcByte st b = crcShift^[8] (st ^^^ b.setWidth 32) := by
  have hlow : ∀ i < 8, ((st ^^^ b.setWidth 32) &&& ~~~0xFF).getLsbD i = false := fun i hi => by
    simp only [BitVec.getLsbD_and, BitVec.getLsbD_not, getLsbD_low_byte_mask, hi, decide_true, Bool.not_true,
      Bool.and_false]
  calc crcByte st b
      = crcShift^[8] ((st ^^^ b.setWidth 32) &&& 0xFF) ^^^ st >>> 8 := BitVec.xor_comm _ _
    _ = crcShift^[8] ((st ^^^ b.setWidth 32) &&& 0xFF) ^^^ crcShift^[8] ((st ^^^ b.setWidth 32) &&& ~~~0xFF) := by
        rw [crcShift_iterate_of_low_zero hlow, rest_of_byte_shifted]
    _ = crcShift^[8] (st ^^^ b.setWidth 32) := by rw [← crcShift_iterate_xor, low_byte_xor_rest]

/-! ### Adjacent regions -/

theorem State.memRead_add (s : State) (a m n : Nat) : s.memRead a (m + n) = s.memRead a m ++ s.memRead (a + m) n := by
  induction m generalizing a with
  | zero => rw [Nat.zero_add, State.memRead]; rfl
  | succ m ih =>
    rw [Nat.add_right_comm, State.memRead, State.memRead, ih, List.cons_append, Nat.add_right_comm, Nat.add_assoc]

/-- CRC_UPDATE over a region inside BUF, and what the next one reads of the state it leaves. -/
theorem exec_crcUpdate_region {s t : State} {a n : Word}
    (h : exec .crcUpdate { s with srcAddr := a, srcLen := n } = .next t)
    (hfit : a.toNat + n.toNat ≤ s.config.bufSize) :
    t.err = 0x00 ∧ t.crcState = crc32Update s.crcState (s.memRead a.toNat n.toNat) ∧ t.config = s.config ∧
      ∀ b, t.bufByte b = s.bufByte b := by
  rw [exec_crcUpdate_valid hfit] at h
  injection h with h
  subst h
  have hread : { s with srcAddr := a, srcLen := n }.srcBytes = s.memRead a.toNat n.toNat :=
    State.memRead_congr fun _ _ _ => rfl
  exact ⟨rfl, congrArg (crc32Update s.crcState) hread, rfl, fun _ => rfl⟩

end Sys2Proof.Machine
end

section
/-! PROOFS. The statements on the CRC's byte step and on adjacent regions (41_crc32.md). -/

namespace Sys2Proof.Proofs

open Sys2Proof Sys2Proof.Machine

/-- Settles O13: eight shifts are linear, act on the low byte as the table does, and only shift the rest. -/
theorem crcByteStepIsEightBitSteps : Obligations.CrcByteStepIsEightBitSteps := crcByte_eq_iterate

/-- Settles O15: the bytes of both regions are those of the first and then of the second, which CRC_UPDATE does not
change. -/
theorem adjacentCrcUpdatesAreOne : Obligations.AdjacentCrcUpdatesAreOne := by
  intro s t u v a n m hsum hend hfit ht hu hv
  have hlen : (n + m).toNat = n.toNat + m.toNat := by rw [BitVec.toNat_add, Nat.mod_eq_of_lt hsum]
  have haddr : (a + n).toNat = a.toNat + n.toNat := by rw [BitVec.toNat_add, Nat.mod_eq_of_lt hend]
  obtain ⟨hterr, htcrc, htconfig, htbyte⟩ := exec_crcUpdate_region ht (by omega)
  obtain ⟨huerr, hucrc, -⟩ := exec_crcUpdate_region hu (by rw [htconfig]; omega)
  obtain ⟨hverr, hvcrc, -⟩ := exec_crcUpdate_region hv (by omega)
  have hsecond : t.memRead (a + n).toNat m.toNat = s.memRead (a.toNat + n.toNat) m.toNat :=
    haddr ▸ State.memRead_congr fun b _ _ => htbyte b
  refine ⟨hterr, huerr, hverr, ?_⟩
  rw [hucrc, hvcrc, htcrc, hsecond, hlen, State.memRead_add, crc32Update_append]

end Sys2Proof.Proofs
end

section
/-! PROOFS. The field of X25519 as integers modulo p, its inverse as a power, and the ladder at u = 0 (R180, R181, R186,
R190). -/

namespace Sys2Proof.Machine

/-! ### The inverse (R181) -/

/-- The low `n + 1` bits of an exponent: bit `n`, and the low `n` bits. -/
theorem mod_two_pow_succ_eq (e n : Nat) : e % 2 ^ (n + 1) = e % 2 ^ n + 2 ^ n * (e.testBit n).toNat := by
  rw [Nat.mod_pow_succ, Nat.toNat_testBit]

theorem fMul_lt (x y : Nat) : fMul x y < p25519 := Nat.mod_lt _ (by decide)

theorem fMul_pow_mod (x y k : Nat) : (fMul x y) ^ k % p25519 = (x * y) ^ k % p25519 :=
  (Nat.pow_mod (x * y) k p25519).symm

/-- Squaring over `n` bits: the accumulator is raised to 2^n, and z to the number the bits make. -/
theorem fPowBits_eq (z e : Nat) (n : Nat) {acc : Nat} (h : acc < p25519) :
    fPowBits z e n acc = acc ^ 2 ^ n * z ^ (e % 2 ^ n) % p25519 := by
  induction n generalizing acc with
  | zero => simp [fPowBits, Nat.mod_one, Nat.mod_eq_of_lt h]
  | succ n ih =>
    have hsquare : (acc * acc) ^ 2 ^ n = acc ^ 2 ^ (n + 1) := by rw [← sq, ← pow_mul, pow_succ']
    rw [fPowBits, mod_two_pow_succ_eq]
    cases e.testBit n with
    | false =>
      rw [if_neg Bool.false_ne_true, ih (fMul_lt _ _), Nat.mul_mod, fMul_pow_mod, ← Nat.mul_mod, hsquare]
      rfl
    | true =>
      have hmul : fMul (fMul acc acc) z = fMul (acc * acc) z := by
        rw [fMul, fMul, fMul, Nat.mod_mul_mod]
      rw [if_pos rfl, ih (fMul_lt _ _), hmul, Nat.mul_mod, fMul_pow_mod, ← Nat.mul_mod, mul_pow, hsquare,
        Bool.toNat_true, mul_one, mul_assoc, ← pow_add, Nat.add_comm (2 ^ n)]

theorem fPowBits_one {z e n : Nat} (h : e < 2 ^ n) : fPowBits z e n 1 = z ^ e % p25519 := by
  rw [fPowBits_eq z e n (by decide), one_pow, one_mul, Nat.mod_eq_of_lt h]

theorem inversion_exponent_lt : p25519 - 2 < 2 ^ 255 := (Nat.sub_le _ _).trans_lt p25519_lt

theorem fInv_eq_pow (z : Nat) : fInv z = z ^ (p25519 - 2) % p25519 := by
  rw [fInv, fPowBits_one inversion_exponent_lt]

theorem zero_pow_mod {e : Nat} (h : e ≠ 0) (m : Nat) : 0 ^ e % m = 0 := by
  rw [zero_pow h, Nat.zero_mod]

theorem fInv_zero : fInv 0 = 0 := (fInv_eq_pow 0).trans (zero_pow_mod (by decide) p25519)

/-! ### The operations as those of the integers modulo p (R180) -/

@[simp] theorem cast_fAdd (x y : Nat) : (fAdd x y : ZMod p25519) = x + y := by
  rw [fAdd, ZMod.natCast_mod, Nat.cast_add]

@[simp] theorem cast_fMul (x y : Nat) : (fMul x y : ZMod p25519) = x * y := by
  rw [fMul, ZMod.natCast_mod, Nat.cast_mul]

@[simp] theorem cast_fSub (x y : Nat) : (fSub x y : ZMod p25519) = x - y := by
  have hle : y % p25519 ≤ p25519 := (Nat.mod_lt y (by decide)).le
  rw [fSub, ZMod.natCast_mod, Nat.cast_add, Nat.cast_sub hle, ZMod.natCast_mod, ZMod.natCast_self, zero_sub,
    sub_eq_add_neg]

theorem fSub_eq_zero {x y : Nat} (h : (x : ZMod p25519) = y) : fSub x y = 0 := by
  have hlt : fSub x y < p25519 := Nat.mod_lt _ (by decide)
  have hcast : ((fSub x y : Nat) : ZMod p25519) = 0 := by rw [cast_fSub, h, sub_self]
  exact Nat.eq_zero_of_dvd_of_lt ((ZMod.natCast_eq_zero_iff _ _).1 hcast) hlt

/-! ### The ladder at u = 0 -/

/-- In each pair of ladder variables one of the two is 0. -/
def LadderVars.Degenerate (v : LadderVars) : Prop := (v.x2 = 0 ∨ v.z2 = 0) ∧ (v.x3 = 0 ∨ v.z3 = 0)

theorem LadderVars.Degenerate.cswapVars {v : LadderVars} (h : v.Degenerate) (b : Nat) :
    (cswapVars b v).Degenerate := by
  unfold Machine.cswapVars
  split_ifs
  · exact h.symm
  · exact h

/-- Doubling a degenerate pair gives z2 = E * .. with E = (x + z)^2 - (x - z)^2 = 4 * x * z = 0; and z3 carries the
factor u = 0. -/
theorem LadderVars.Degenerate.ladderArith {v : LadderVars} (h : v.Degenerate) : (ladderArith 0 v).Degenerate := by
  obtain ⟨hpair, -⟩ := h
  have hprod : (v.x2 : ZMod p25519) * v.z2 = 0 := by
    rcases hpair with hx | hz
    · rw [hx, Nat.cast_zero, zero_mul]
    · rw [hz, Nat.cast_zero, mul_zero]
  have hE : fSub (fMul (fAdd v.x2 v.z2) (fAdd v.x2 v.z2)) (fMul (fSub v.x2 v.z2) (fSub v.x2 v.z2)) = 0 := by
    refine fSub_eq_zero ?_
    simp only [cast_fMul, cast_fAdd, cast_fSub]
    linear_combination 4 * hprod
  refine ⟨.inr ?_, .inr ?_⟩
  · simp only [Machine.ladderArith, hE]
    rw [fMul, zero_mul, Nat.zero_mod]
  · simp only [Machine.ladderArith]
    rw [fMul, fMul, zero_mul, Nat.zero_mod, zero_mul, Nat.zero_mod]

theorem LadderVars.Degenerate.ladderLoop {v : LadderVars} (h : v.Degenerate) (s n : Nat) :
    (ladderLoop s 0 n v).Degenerate := by
  induction n generalizing v with
  | zero => exact h
  | succ n ih => exact ih (h.cswapVars _).ladderArith

theorem ladder_zero (s : Nat) : ladder s 0 = 0 := by
  have hstart : (ladderStart 0).Degenerate := ⟨.inr rfl, .inl rfl⟩
  obtain ⟨hfinal, -⟩ := (hstart.ladderLoop s 255).cswapVars (ladderLoop s 0 255 (ladderStart 0)).swap
  rw [ladder]
  rcases hfinal with hx | hz
  · rw [hx, fMul, zero_mul, Nat.zero_mod]
  · rw [hz, fInv_zero, fMul, mul_zero, Nat.zero_mod]

theorem leBytes_zero (n : Nat) : leBytes n 0 = zeros n := by
  induction n with
  | zero => rfl
  | succ n ih => rw [leBytes, Nat.zero_div, ih]; rfl

theorem x25519_of_decodeU_eq_zero {k u : Bytes} (h : decodeU u = 0) : x25519 k u = zeros 32 := by
  rw [x25519, h, ladder_zero, encodeU, Nat.zero_mod, leBytes_zero]

end Sys2Proof.Machine
end

section
/-! PROOFS. The statement on the field inverse (42_x25519.md). -/

namespace Sys2Proof.Proofs

open Sys2Proof Sys2Proof.Machine

/-- Settles O21: squaring over the 255 bits of p - 2 makes that power. -/
theorem fieldInversionIsThePower : Obligations.FieldInversionIsThePower := ⟨fInv_eq_pow, fInv_zero⟩

end Sys2Proof.Proofs
end

section
/-! PROOFS. SHA-256's padding and HKDF's blocks (R214, R218 to R222). -/

namespace Sys2Proof.Machine

/-! ### Padding (R214) -/

theorem shaPad_length_mod (m : Bytes) : (shaPad m).length % 64 = 0 := by
  simp only [shaPad, List.length_append, List.length_singleton, zeros_length, beBytes_length]
  omega

/-- Whole blocks make up the padded message. -/
theorem shaBlocks_flatten {m : Bytes} (h : m.length % 64 = 0) : (shaBlocks m).flatten = m :=
  chunks_flatten 64 _ m (by omega)

theorem length_of_mem_shaBlocks {m b : Bytes} (h : b ∈ shaBlocks m) : b.length = 64 :=
  chunks_length_eq (Nat.mul_div_le _ _) h

/-! ### HMAC keys and Expand (R218, R220) -/

/-- An HMAC key is filled up with zeros, so an empty one acts as 32 zero bytes (R222). -/
theorem hmac_nil_key (m : Bytes) : hmac [] m = hmac (zeros 32) m := by
  have hkey : hmacKey [] = hmacKey (zeros 32) := by decide
  rw [hmac, hmac, hkey]

/-- More blocks only add behind the ones there are. -/
theorem hkdfBlocks_prefix (prk info : Bytes) {m n : Nat} (h : m ≤ n) (i : Nat) (t : Bytes) :
    hkdfBlocks prk info m i t <+: hkdfBlocks prk info n i t := by
  induction m generalizing n i t with
  | zero => exact List.nil_prefix
  | succ m ih =>
    obtain ⟨n, rfl⟩ : ∃ k, n = k + 1 := ⟨n - 1, by omega⟩
    exact (List.prefix_append_right_inj _).2 (ih (by omega) _ _)

/-- A shorter Expand is the front of a longer one. -/
theorem hkdfExpand_take (prk info : Bytes) {m n : Nat} (h : m ≤ n) :
    hkdfExpand prk info m = (hkdfExpand prk info n).take m := by
  have hprefix : hkdfBlocks prk info ((m + 31) / 32) 1 [] <+: hkdfBlocks prk info ((n + 31) / 32) 1 [] :=
    hkdfBlocks_prefix prk info (by omega) 1 []
  have hlen : m ≤ (hkdfBlocks prk info ((m + 31) / 32) 1 []).length := by
    rw [hkdfBlocks_length]
    omega
  obtain ⟨rest, hrest⟩ := hprefix
  rw [hkdfExpand, hkdfExpand, List.take_take, Nat.min_eq_left h, ← hrest, List.take_append_of_le_length hlen]

/-- One block of Expand is one HMAC (R221). -/
theorem kdf_eq (info ss : Bytes) : kdf info ss = hmac (hmac (zeros 32) ss) (info ++ [0x01]) := by
  have hblocks : hkdfBlocks (hmac (zeros 32) ss) info 1 1 [] = hmac (hmac (zeros 32) ss) (info ++ [0x01]) := by
    simp [hkdfBlocks]
  have hlen := hmac_length (hmac (zeros 32) ss) (info ++ [0x01])
  calc kdf info ss = (hkdfBlocks (hmac (zeros 32) ss) info 1 1 []).take 32 := rfl
    _ = _ := by rw [hblocks, List.take_of_length_le hlen.le]

end Sys2Proof.Machine
end

section
/-! PROOFS. Counter mode chunk by chunk, the GHASH product as a bilinear map, and GCM built on both (R248 to R253). -/

namespace Sys2Proof.Machine

/-! ### Counter mode (R250) -/

/-- A first part of `n` elements, or a shorter one with nothing behind it, is what `take n` takes. -/
theorem take_drop_append {α : Type} {n : Nat} {x y : List α} (h : x.length = n ∨ x.length ≤ n ∧ y = []) :
    (x ++ y).take n = x ∧ (x ++ y).drop n = y := by
  rcases h with hfull | ⟨hle, rfl⟩
  · exact ⟨List.take_left' hfull, List.drop_left' hfull⟩
  · rw [List.append_nil]
    exact ⟨List.take_of_length_le hle, List.drop_of_length_le hle⟩

section
variable {E : Bytes → Bytes} (hE : ∀ b, (E b).length = 16)
include hE

/-- The output is as long as the data, so its chunks stand where the data's chunks stand, and each is xored with the
same cipher block again. -/
theorem gctrBlocks_chunks_twice (k : Nat) (cb x : Bytes) (hk : x.length ≤ 16 * k) :
    gctrBlocks E cb (chunks 16 k (gctrBlocks E cb (chunks 16 k x))) = x := by
  induction k generalizing cb x with
  | zero =>
    have hx : x = [] := List.length_eq_zero_iff.1 (by omega)
    rw [hx]
    rfl
  | succ k ih =>
    have hrest : (x.drop 16).length ≤ 16 * k := by rw [List.length_drop]; omega
    have hlast : (gctrBlocks E (inc32 cb) (chunks 16 k (x.drop 16))).length = x.length - 16 := by
      rw [gctrBlocks_length E hE _ _ fun c hc => chunks_length_le hc, chunks_flatten _ _ _ hrest, List.length_drop]
    have hfirst : (xorBytes (x.take 16) (E cb)).length = min 16 x.length := by
      rw [xorBytes_length, hE, List.length_take]
      omega
    obtain ⟨htake, hdrop⟩ := take_drop_append (n := 16) (x := xorBytes (x.take 16) (E cb))
        (y := gctrBlocks E (inc32 cb) (chunks 16 k (x.drop 16))) (by
      rw [hfirst, ← List.length_eq_zero_iff, hlast]
      omega)
    rw [chunks, gctrBlocks, chunks, gctrBlocks, htake, hdrop, ih _ _ hrest,
      xorBytes_xorBytes _ _ (by rw [hE, List.length_take]; omega), List.take_append_drop]

theorem gctr_gctr (icb x : Bytes) : gctr E icb (gctr E icb x) = x := by
  rw [gctr, gctr_length E hE, gctr, gctrBlocks_chunks_twice hE _ _ _ (by omega)]

end

/-! ### The GHASH product (R248) -/

/-- Multiplication by x is linear over GF(2). -/
theorem gfShift_xor (v w : Block128) : gfShift (v ^^^ w) = gfShift v ^^^ gfShift w := by
  unfold gfShift
  rw [BitVec.getLsbD_xor, BitVec.ushiftRight_xor_distrib]
  cases v.getLsbD 0 <;> cases w.getLsbD 0 <;> simp [BitVec.xor_assoc, BitVec.xor_comm, bitVec_xor_left_comm]

theorem xor_xor_xor_comm {w : Nat} (a b c d : BitVec w) : a ^^^ b ^^^ (c ^^^ d) = a ^^^ c ^^^ (b ^^^ d) := by
  rw [BitVec.xor_assoc, bitVec_xor_left_comm b, ← BitVec.xor_assoc]

theorem gfmulLoop_xor_left (x x' : Block128) (n : Nat) (z z' v : Block128) :
    gfmulLoop (x ^^^ x') n (z ^^^ z') v = gfmulLoop x n z v ^^^ gfmulLoop x' n z' v := by
  induction n generalizing z z' v with
  | zero => rfl
  | succ n ih =>
    rw [gfmulLoop, gfmulLoop, gfmulLoop, ← ih, BitVec.getLsbD_xor]
    congr 1
    cases x.getLsbD n <;> cases x'.getLsbD n <;> simp [BitVec.xor_comm, bitVec_xor_left_comm]

theorem gfmulLoop_xor_right (x : Block128) (n : Nat) (z z' v v' : Block128) :
    gfmulLoop x n (z ^^^ z') (v ^^^ v') = gfmulLoop x n z v ^^^ gfmulLoop x n z' v' := by
  induction n generalizing z z' v v' with
  | zero => rfl
  | succ n ih =>
    rw [gfmulLoop, gfmulLoop, gfmulLoop, ← ih, gfShift_xor]
    cases x.getLsbD n with
    | false => rfl
    | true => rw [if_pos rfl, if_pos rfl, if_pos rfl, xor_xor_xor_comm]

theorem gfmul_xor_left (x y z : Block128) : gfmul (x ^^^ y) z = gfmul x z ^^^ gfmul y z :=
  gfmulLoop_xor_left x y 128 0 0 z

theorem gfmul_xor_right (x y z : Block128) : gfmul x (y ^^^ z) = gfmul x y ^^^ gfmul x z :=
  gfmulLoop_xor_right x 128 0 0 y z

/-- Bits of X that are zero add nothing. -/
theorem gfmulLoop_of_low_zero {x : Block128} {n : Nat} (h : ∀ i < n, x.getLsbD i = false) (z v : Block128) :
    gfmulLoop x n z v = z := by
  induction n generalizing z v with
  | zero => rfl
  | succ n ih => rw [gfmulLoop, h n (by omega), if_neg Bool.false_ne_true, ih fun i hi => h i (by omega)]

theorem gfmul_zero_left (y : Block128) : gfmul 0 y = 0 := gfmulLoop_of_low_zero (fun _ _ => BitVec.getLsbD_zero) 0 y

theorem gcm_unit_eq : (0x80000000000000000000000000000000 : Block128) = BitVec.twoPow 128 127 := by decide

/-- Only the first iteration finds a bit of X set, and adds Y as it is. -/
theorem gfmul_unit_left (y : Block128) : gfmul 0x80000000000000000000000000000000 y = y := by
  have hlow : ∀ i < 127, (BitVec.twoPow 128 127).getLsbD i = false := fun i hi => by
    simp [BitVec.getLsbD_twoPow, hi.ne']
  rw [gcm_unit_eq, gfmul, gfmulLoop, BitVec.getLsbD_twoPow]
  simp [gfmulLoop_of_low_zero hlow]

theorem gfShift_twoPow_succ (n : Nat) (h : n + 1 < 128) :
    gfShift (BitVec.twoPow 128 (n + 1)) = BitVec.twoPow 128 n := by
  rw [gfShift, BitVec.getLsbD_twoPow, if_neg (by simp)]
  ext i hi
  simp only [BitVec.getElem_ushiftRight, BitVec.getLsbD_twoPow, BitVec.getElem_twoPow]
  by_cases heq : n = i
  · subst heq; simp [Nat.add_comm, h]
  · simp [show ¬n + 1 = 1 + i by omega, Ne.symm heq]

/-- One iteration of the loop adds bit n of X at its own place. -/
theorem getLsbD_add_bit (x z : Block128) {n : Nat} (h : n < 128) (i : Nat) :
    (if x.getLsbD n then z ^^^ BitVec.twoPow 128 n else z).getLsbD i =
      (z.getLsbD i ^^ (decide (i = n) && x.getLsbD i)) := by
  by_cases hin : i = n
  · subst hin
    cases x.getLsbD i <;> simp [h]
  · cases x.getLsbD n <;> simp [BitVec.getLsbD_twoPow, hin, Ne.symm hin]

/-- From x^n on, the loop adds the low n + 1 bits of X, each at its own place. -/
theorem gfmulLoop_twoPow (x : Block128) {n : Nat} (h : n < 128) (z : Block128) (i : Nat) :
    (gfmulLoop x (n + 1) z (BitVec.twoPow 128 n)).getLsbD i = (z.getLsbD i ^^ (decide (i ≤ n) && x.getLsbD i)) := by
  induction n generalizing z with
  | zero =>
    rw [gfmulLoop, gfmulLoop, getLsbD_add_bit x z h]
    simp
  | succ n ih =>
    have hbits : decide (i ≤ n + 1) = (decide (i = n + 1) ^^ decide (i ≤ n)) := by
      by_cases hi : i ≤ n
      · simp [hi, show i ≤ n + 1 by omega, show i ≠ n + 1 by omega]
      · simp only [hi, decide_false, Bool.xor_false, decide_eq_decide]
        omega
    rw [gfmulLoop, gfShift_twoPow_succ n h, ih (by omega), getLsbD_add_bit x z h, hbits, Bool.and_xor_distrib_right,
      Bool.xor_assoc]

theorem gfmul_unit_right (x : Block128) : gfmul x 0x80000000000000000000000000000000 = x := by
  rw [gcm_unit_eq, gfmul]
  refine BitVec.eq_of_getLsbD_eq fun i hi => ?_
  rw [gfmulLoop_twoPow x (by decide)]
  simp [show i ≤ 127 by omega]

/-! ### GCM (R252, R253) -/

/-- Decryption checks the tag of the ciphertext and undoes the counter mode. -/
theorem gcmAD_gcmAE {k : Bytes} (hk : k.length = 32) (iv p a : Bytes) :
    gcmAD k iv (gcmAE k iv p a).1 a (gcmAE k iv p a).2 = some p :=
  (if_pos rfl).trans (congrArg some (gctr_gctr (fun b => aes256_length k b hk) _ _))

theorem gcmAD_of_other_tag {k iv p a t : Bytes} (h : t ≠ (gcmAE k iv p a).2) :
    gcmAD k iv (gcmAE k iv p a).1 a t = none := if_neg h.symm

/-- GHASH of the one length block over no text is zero, whatever the subkey is. -/
theorem gcmS_nil (E : Bytes → Bytes) : gcmS E [] [] = zeros 16 := by
  have hinput : ([] ++ pad16 [] ++ [] ++ pad16 [] ++ beBytes 8 (8 * 0) ++ beBytes 8 (8 * 0) : Bytes) = zeros 16 := by
    decide
  have hchunks : chunks 16 ((zeros 16).length / 16) (zeros 16) = [zeros 16] := by decide
  have hblock : (0 : Block128) ^^^ toBlock (zeros 16) = 0 := by decide
  calc gcmS E [] [] = ghash (gcmH E) (zeros 16) := congrArg (ghash (gcmH E)) hinput
    _ = ofBlock (gfmul (0 ^^^ toBlock (zeros 16)) (toBlock (gcmH E))) := by
      rw [ghash, hchunks, List.foldl_cons, List.foldl_nil]
    _ = ofBlock 0 := by rw [hblock, gfmul_zero_left]
    _ = zeros 16 := by decide

theorem xorBytes_zeros (x : Bytes) : xorBytes (zeros x.length) x = x := by
  induction x with
  | nil => rfl
  | cons b x ih => exact congrArg₂ List.cons (BitVec.zero_xor) ih

/-- Counter mode over one zero block is the cipher of the counter. -/
theorem gctr_zeros {E : Bytes → Bytes} (hE : ∀ b, (E b).length = 16) (icb : Bytes) : gctr E icb (zeros 16) = E icb := by
  calc gctr E icb (zeros 16) = xorBytes (zeros 16) (E icb) ++ [] := rfl
    _ = E icb := by rw [List.append_nil, ← hE icb, xorBytes_zeros]

theorem gcmAE_nil {k : Bytes} (hk : k.length = 32) (iv : Bytes) : gcmAE k iv [] [] = ([], aes256 k (gcmJ0 iv)) := by
  have htag : gcmTag (aes256 k) iv [] [] = aes256 k (gcmJ0 iv) := by
    rw [gcmTag, gcmS_nil, gctr_zeros fun b => aes256_length k b hk]
  exact congrArg (Prod.mk []) htag

end Sys2Proof.Machine
end

section
/-! PROOFS. The statements on SHA-256, HKDF, AES-256 and GCM (43_sha256_hkdf.md, 44_aes256_gcm.md). -/

namespace Sys2Proof.Proofs

open Sys2Proof Sys2Proof.Machine

/-- Settles O26: the zeros are as many as make whole blocks. -/
theorem shaPaddingFillsWholeBlocks : Obligations.ShaPaddingFillsWholeBlocks := fun m =>
  ⟨⟨(64 - (m.length + 9) % 64) % 64, Nat.mod_lt _ (by decide), rfl⟩, shaPad_length_mod m,
    shaBlocks_flatten (shaPad_length_mod m), fun _ => length_of_mem_shaBlocks, sha256_length m⟩

/-- Settles O28: KDF asks Expand for one block; longer ones only add blocks behind. -/
theorem keyDerivationIsTwoHmacs : Obligations.KeyDerivationIsTwoHmacs :=
  ⟨fun info ss => ⟨kdf_eq info ss, kdf_length info ss⟩, fun ikm => ⟨rfl, hmac_nil_key ikm⟩, hkdfExtract_length,
    fun prk info L _ _ hle => ⟨hkdfExpand_length prk info L, hkdfExpand_take prk info hle⟩⟩

/-- Settles O31: every chunk is xored twice with the same cipher block. -/
theorem counterModeUndoesItself : Obligations.CounterModeUndoesItself := fun _ icb x hE =>
  ⟨gctr_length _ hE icb x, gctr_gctr hE icb x⟩

/-- Settles O32: encryption and decryption compute the same tag and the same counter mode. -/
theorem gcmOpensWhatItSealed : Obligations.GcmOpensWhatItSealed := fun k iv p a hk =>
  ⟨gcmText_length k iv p hk, gcmTag_length k iv _ a hk, gcmAD_gcmAE hk iv p a, fun _ => gcmAD_of_other_tag⟩

/-- Settles O33: each iteration of the product is linear, and the unit is the first bit it looks at. -/
theorem gfmulIsBilinearWithUnit : Obligations.GfmulIsBilinearWithUnit := fun x y z =>
  ⟨gfmul_xor_left x y z, gfmul_xor_right x y z, gfmul_unit_left y, gfmul_unit_right x⟩

/-- Settles O34: GHASH of no text is zero, so the tag is the first counter's cipher block. -/
theorem emptyPlaintextTag : Obligations.EmptyPlaintextTag := fun _ iv hk => gcmAE_nil hk iv

end Sys2Proof.Proofs
end

section
/-! PROOFS. The completion of a command that drew, and KEYGEN and DERIVE_PUBLIC by their cases (R137, R193 to R195). -/

namespace Sys2Proof.Machine

/-! ### The completion by what the draws did -/

/-- An error with no draw failed. -/
theorem complete_raise_drawn (s : State) (e : ErrorCode) {w : Work} (hw : w.rngFailed = false) :
    s.complete (.raise e w) =
      { s with
        result := 0x00000000
        err := e.code
        busy := false
        secrets := Secrets.zero
        entropy := w.entropy
        draws := w.draws } := by
  rw [complete_raise, hw, Bool.or_false]

/-- RandomSourceFailure with a draw failed sets RNG_FAIL (R38). -/
theorem complete_raise_failed (s : State) (e : ErrorCode) {w : Work} (hw : w.rngFailed = true) :
    s.complete (.raise e w) =
      { s with
        result := 0x00000000
        err := e.code
        rngFail := true
        busy := false
        secrets := Secrets.zero
        entropy := w.entropy
        draws := w.draws } := by
  rw [complete_raise, hw, Bool.or_true]

/-- A success stores its text at dstR and leaves CRC_STATE. -/
theorem complete_success_drawn (s : State) (v : Bytes) (res : Word) {w : Work} (hw : w.rngFailed = false) :
    s.complete (.success [(s.dstAt, v)] res none w) =
      { s with
        buf := s.buf.setBytes s.dstAt v
        result := res
        err := 0x00
        busy := false
        secrets := Secrets.zero
        entropy := w.entropy
        draws := w.draws } := by
  rw [complete_success, hw, Bool.or_false]
  rfl

/-- A command that succeeds has passed its argument checks. -/
theorem prologue_eq_none_of_success {i : Instr} {s t : State} (h : exec i s = .next t) (herr : t.err = 0x00) :
    prologue i s = none := by
  cases hp : prologue i s with
  | none => rfl
  | some e =>
    rw [exec_of_prologue_some hp] at h
    injection h with h
    exact absurd ((congrArg State.err h).trans herr) e.code_ne_zero

/-! ### A draw with RNG_FAIL clear -/

theorem draw_of_none {w : Work} {n : Nat} (h : w.nextAnswer n = none) :
    w.draw false n = (none, { w.advance with rngFailed := true }) := by
  simp [Work.draw, h]

theorem draw_of_some {w : Work} {n : Nat} {bs : Bytes} (h : w.nextAnswer n = some bs) :
    w.draw false n = (some bs, w.advance) := by
  simp [Work.draw, h]

theorem generateKeyPair_of_none {w : Work} (h : w.nextAnswer 32 = none) :
    generateKeyPair false w = (none, { w.advance with rngFailed := true }) := by
  simp [generateKeyPair, draw_of_none h]

theorem generateKeyPair_of_some {w : Work} {raw : Bytes} (h : w.nextAnswer 32 = some raw) :
    generateKeyPair false w =
      (some (clamp raw, x25519 (clamp raw) basePoint), w.advance.withEphSk (clamp raw)) := by
  simp [generateKeyPair, draw_of_some h, Work.withEphSk]

/-! ### KEYGEN (R194) -/

theorem prologue_keygen_eq_none {s : State} (hcap : 64 ≤ s.dstCap.toNat)
    (hdst : s.dstAddr.toNat + 64 ≤ s.config.bufSize) : prologue .keygen s = none := by
  rw [prologue_keygen, if_neg (Nat.not_lt.2 hcap), if_neg (Nat.not_lt.2 hdst)]

/-- With RNG_FAIL set no request reaches the oracle. -/
theorem exec_keygen_of_rngFail {s : State} (hp : prologue .keygen s = none) (hr : s.rngFail = true) :
    exec .keygen s =
      .next { s with result := 0x00000000, err := 0x06, busy := false, secrets := Secrets.zero } := by
  rw [exec_eq, execBody_keygen_rngFail hr hp, complete_raise_work]
  rfl

theorem exec_keygen_of_none {s : State} (hp : prologue .keygen s = none) (hr : s.rngFail = false)
    (h : s.work.nextAnswer 32 = none) :
    exec .keygen s =
      .next { s with
        result := 0x00000000
        err := 0x06
        rngFail := true
        busy := false
        secrets := Secrets.zero
        entropy := s.entropy.tail
        draws := s.draws + 1 } := by
  have hbody : execBody .keygen s = .raise .randomSourceFailure { s.work.advance with rngFailed := true } := by
    rw [execBody, keygenBody, afterPrologue_none hp, hr, generateKeyPair_of_none h]
  rw [exec_eq, hbody, complete_raise_failed s _ rfl]
  rfl

theorem exec_keygen_of_some {s : State} (hp : prologue .keygen s = none) (hr : s.rngFail = false) {raw : Bytes}
    (h : s.work.nextAnswer 32 = some raw) :
    exec .keygen s =
      .next { s with
        buf := s.buf.setBytes s.dstAddr.toNat (clamp raw ++ x25519 (clamp raw) basePoint)
        result := 64
        err := 0x00
        busy := false
        secrets := Secrets.zero
        entropy := s.entropy.tail
        draws := s.draws + 1 } := by
  have hbody : execBody .keygen s = .success [(s.dstAt, clamp raw ++ x25519 (clamp raw) basePoint)] 64 none
      (s.work.advance.withEphSk (clamp raw)) := by
    rw [execBody, keygenBody, afterPrologue_none hp, hr, generateKeyPair_of_some h]
  rw [exec_eq, hbody, complete_success_drawn s _ _ rfl]
  rfl

/-- What a KEYGEN that succeeded stored. -/
theorem buf_of_keygen_success {s t : State} {raw : Bytes} (h : exec .keygen s = .next t) (herr : t.err = 0x00)
    (hraw : s.work.nextAnswer 32 = some raw) :
    t.buf = s.buf.setBytes s.dstAddr.toNat (clamp raw ++ x25519 (clamp raw) basePoint) := by
  have hp := prologue_eq_none_of_success h herr
  cases hr : s.rngFail with
  | true =>
    rw [exec_keygen_of_rngFail hp hr] at h
    injection h with h
    exact absurd ((congrArg State.err h).trans herr) (ErrorCode.code_ne_zero .randomSourceFailure)
  | false =>
    rw [exec_keygen_of_some hp hr hraw] at h
    injection h with h
    exact (congrArg State.buf h).symm

/-! ### DERIVE_PUBLIC (R195) -/

theorem exec_derivePublic_success {s : State} (hp : prologue .derivePublic s = none) :
    exec .derivePublic s =
      .next { s with
        buf := s.buf.setBytes s.dstAddr.toNat (x25519 (clamp (s.memRead s.keyAddr.toNat 32)) basePoint)
        result := 32
        err := 0x00
        busy := false
        secrets := Secrets.zero } := by
  rw [exec_eq, execBody, derivePublicBody, afterPrologue_none hp, complete_success_drawn s _ _ rfl]
  rfl

/-! ### Reading back what a command stored -/

/-- A string stored in BUF is read there, in any state with that BUF. -/
theorem memRead_of_buf_eq {s t : State} {a : Nat} {v : Bytes} (h : t.buf = s.buf.setBytes a v) :
    t.memRead a v.length = v := by
  have hread : t.memRead a v.length = ({ s with resets := t.resets }.memWrite a v).memRead a v.length :=
    State.memRead_congr fun b _ _ => by rw [State.bufByte, h]; rfl
  rw [hread, State.memRead_memWrite_same]

/-- Two strings stored one after the other are read as two regions. -/
theorem memRead_of_buf_eq_append {s t : State} {a : Nat} {v w : Bytes} (h : t.buf = s.buf.setBytes a (v ++ w)) :
    t.memRead a v.length = v ∧ t.memRead (a + v.length) w.length = w := by
  have hread := memRead_of_buf_eq h
  rw [List.length_append, State.memRead_add] at hread
  exact List.append_inj hread (State.memRead_length _ _ _)

end Sys2Proof.Machine
end

section
/-! PROOFS. The envelope and its fields, and ENCRYPT and DECRYPT by their cases (R270 to R277). -/

namespace Sys2Proof.Machine

/-! ### The fields of an envelope (R270) -/

theorem slice_append {x y z : Bytes} {a b : Nat} (ha : x.length = a) (hb : a + y.length = b) :
    slice (x ++ y ++ z) a b = y := by
  rw [slice, List.append_assoc, List.drop_left' ha, List.take_left' (by omega)]

section
variable {epk nonce c t : Bytes} (hepk : epk.length = 32) (hnonce : nonce.length = 12) (ht : t.length = 16)

include hepk in
theorem envEpk_envelope : envEpk (envelope epk nonce c t) = epk := by
  have h := slice_append (x := []) (y := epk) (z := nonce ++ c ++ t) (a := 0) (b := 32) rfl (by omega)
  rwa [List.nil_append, ← List.append_assoc, ← List.append_assoc] at h

include hepk hnonce in
theorem envNonce_envelope : envNonce (envelope epk nonce c t) = nonce := by
  have h := slice_append (x := epk) (y := nonce) (z := c ++ t) hepk (b := 44) (by omega)
  rwa [← List.append_assoc] at h

include hepk hnonce ht in
theorem envCiphertext_envelope : envCiphertext (envelope epk nonce c t) = c := by
  have hlen := envelope_length epk nonce c t hepk hnonce ht
  exact slice_append (x := epk ++ nonce) (by rw [List.length_append]; omega) (by omega)

include hepk hnonce ht in
theorem envTag_envelope : envTag (envelope epk nonce c t) = t := by
  have hlen := envelope_length epk nonce c t hepk hnonce ht
  have h := slice_append (x := epk ++ nonce ++ c) (y := t) (z := []) (a := (envelope epk nonce c t).length - 16)
    (b := (envelope epk nonce c t).length) (by simp only [List.length_append]; omega) (by omega)
  rwa [List.append_nil] at h

end

/-! ### Bit 255 of ephemeral_public (R277) -/

theorem slice_modify_of_lt {bs : Bytes} (f : Byte → Byte) {i a : Nat} (h : i < a) (b : Nat) :
    slice (bs.modify i f) a b = slice bs a b := by
  rw [slice, List.drop_modify_of_lt _ _ _ _ h, slice]

theorem envEpk_modify (e : Bytes) (f : Byte → Byte) (i : Nat) : envEpk (e.modify i f) = (envEpk e).modify i f := by
  rw [envEpk, envEpk, slice, slice, List.drop_zero, List.drop_zero, List.take_modify]

theorem x25519_flip_bit_255 (k : Bytes) {u : Bytes} (h : u.length = 32) :
    x25519 k (u.modify 31 fun b => b ^^^ 0x80) = x25519 k u := by
  rw [x25519, x25519, decodeU_flip_bit_255 h]

/-- `open` sees ephemeral_public only through X25519, and byte 31 lies in no other field. -/
theorem openEnvelope_flip_bit_255 (info : Bytes) (w : Work) {e : Bytes} (sk : Bytes) (h : 60 ≤ e.length) :
    openEnvelope info w (e.modify 31 fun b => b ^^^ 0x80) sk = openEnvelope info w e sk := by
  have hlen : (e.modify 31 fun b => b ^^^ 0x80).length = e.length := List.length_modify ..
  have hepk : ∀ k, x25519 k (envEpk (e.modify 31 fun b => b ^^^ 0x80)) = x25519 k (envEpk e) := fun k => by
    rw [envEpk_modify]
    exact x25519_flip_bit_255 k (slice_length e 0 32 (by omega))
  have hnonce : envNonce (e.modify 31 fun b => b ^^^ 0x80) = envNonce e := slice_modify_of_lt _ (by decide) _
  have hcipher : envCiphertext (e.modify 31 fun b => b ^^^ 0x80) = envCiphertext e := by
    rw [envCiphertext, hlen, slice_modify_of_lt _ (by decide), envCiphertext]
  have htag : envTag (e.modify 31 fun b => b ^^^ 0x80) = envTag e := by
    rw [envTag, hlen, slice_modify_of_lt _ (by omega), envTag]
  rw [openEnvelope, openEnvelope]
  simp only [hlen, hepk, hnonce, hcipher, htag]

/-! ### seal by its cases (R272) -/

theorem isLowOrder_eq_false {ss : Bytes} (h : ss ≠ zeros 32) : isLowOrder ss = false := beq_false_of_ne h

theorem isLowOrder_eq_true {ss : Bytes} (h : ss = zeros 32) : isLowOrder ss = true := beq_iff_eq.2 h

section
variable (info : Bytes) {w : Work} (p : Bytes) {pk raw nonce : Bytes}

theorem sealEnvelope_of_key_draw_none (hnone : w.nextAnswer 32 = none) :
    sealEnvelope info false w p pk = (.err .randomSourceFailure, { w.advance with rngFailed := true }) := by
  rw [sealEnvelope, generateKeyPair_of_none hnone]

variable (hraw : w.nextAnswer 32 = some raw)
include hraw

theorem sealEnvelope_of_zero_secret (hzero : x25519 (clamp raw) pk = zeros 32) :
    sealEnvelope info false w p pk =
      (.err .invalidPeerPoint, (w.advance.withEphSk (clamp raw)).withSs (x25519 (clamp raw) pk)) := by
  rw [sealEnvelope, generateKeyPair_of_some hraw]
  exact if_pos (isLowOrder_eq_true hzero)

variable (hzero : x25519 (clamp raw) pk ≠ zeros 32)
include hzero

theorem sealEnvelope_of_nonce_draw_none (hnone : w.advance.nextAnswer 12 = none) :
    sealEnvelope info false w p pk =
      (.err .randomSourceFailure,
        { ((w.advance.withEphSk (clamp raw)).withKey info (x25519 (clamp raw) pk)).advance with
          rngFailed := true }) := by
  have hdraw := draw_of_none (w := (w.advance.withEphSk (clamp raw)).withKey info (x25519 (clamp raw) pk)) hnone
  simp only [sealEnvelope, generateKeyPair_of_some hraw, isLowOrder_eq_false hzero, Bool.false_eq_true, if_false, hdraw]

theorem sealEnvelope_of_draws (hnonce : w.advance.nextAnswer 12 = some nonce) :
    sealEnvelope info false w p pk =
      (.ok (envelope (x25519 (clamp raw) basePoint) nonce
          (gcmAE (kdf info (x25519 (clamp raw) pk)) nonce p []).1
          (gcmAE (kdf info (x25519 (clamp raw) pk)) nonce p []).2),
        ((w.advance.withEphSk (clamp raw)).withKey info (x25519 (clamp raw) pk)).advance.withAead
          (gcmAE (kdf info (x25519 (clamp raw) pk)) nonce p []).1) := by
  have hdraw := draw_of_some (w := (w.advance.withEphSk (clamp raw)).withKey info (x25519 (clamp raw) pk)) hnonce
  simp only [sealEnvelope, generateKeyPair_of_some hraw, isLowOrder_eq_false hzero, Bool.false_eq_true, if_false, hdraw]
  rfl

end

/-! ### open by its cases (R273) -/

/-- What `open` answers once the shared secret is not zero: the plaintext if the tag verifies. -/
def EnvResult.ofPlaintext : Option Bytes → EnvResult
  | none => .err .authenticationFailed
  | some p => .ok p

theorem openEnvelope_of_zero_secret (info : Bytes) (w : Work) {e sk : Bytes} (hlen : 60 ≤ e.length)
    (hzero : x25519 (clamp sk) (envEpk e) = zeros 32) :
    ∃ w', w'.SameOracle w ∧ openEnvelope info w e sk = (.err .invalidPeerPoint, w') := by
  obtain ⟨w', hentropy, hdraws, hfailed, ⟨hshort, -⟩ | ⟨-, -, h⟩ | ⟨-, hne, -⟩ | ⟨-, hne, -⟩⟩ :=
    openEnvelope_cases info w e sk
  · omega
  · exact ⟨w', ⟨hentropy, hdraws, hfailed⟩, h⟩
  · exact absurd hzero hne
  · exact absurd hzero hne

theorem openEnvelope_of_secret (info : Bytes) (w : Work) {e sk : Bytes} (hlen : 60 ≤ e.length)
    (hzero : x25519 (clamp sk) (envEpk e) ≠ zeros 32) :
    ∃ w', w'.SameOracle w ∧ openEnvelope info w e sk =
      (.ofPlaintext (gcmAD (kdf info (x25519 (clamp sk) (envEpk e))) (envNonce e) (envCiphertext e) [] (envTag e)),
        w') := by
  obtain ⟨w', hentropy, hdraws, hfailed, ⟨hshort, -⟩ | ⟨-, heq, -⟩ | ⟨-, -, htag, h⟩ | ⟨-, -, htag, h⟩⟩ :=
    openEnvelope_cases info w e sk
  · omega
  · exact absurd heq hzero
  · exact ⟨w', ⟨hentropy, hdraws, hfailed⟩, by rw [gcmAD, if_neg htag, h]; rfl⟩
  · exact ⟨w', ⟨hentropy, hdraws, hfailed⟩, by rw [gcmAD, if_pos htag, h]; rfl⟩

/-! ### ENCRYPT (R274) -/

theorem prologue_encrypt_eq_none {s : State} (hkey : s.keyLen.toNat = 32)
    (hcap : s.srcLen.toNat + 60 ≤ s.dstCap.toNat) (hsrc : s.srcAddr.toNat + s.srcLen.toNat ≤ s.config.bufSize)
    (hkeyIn : s.keyAddr.toNat + 32 ≤ s.config.bufSize)
    (hdst : s.dstAddr.toNat + (s.srcLen.toNat + 60) ≤ s.config.bufSize) : prologue .encrypt s = none := by
  rw [prologue_encrypt, if_neg (not_not.2 hkey), if_neg (Nat.not_lt.2 hcap), if_neg (Nat.not_lt.2 hsrc),
    if_neg (Nat.not_lt.2 hkeyIn), if_neg (Nat.not_lt.2 hdst)]

theorem execBody_encrypt_of_err {s : State} (hp : prologue .encrypt s = none) {e : ErrorCode} {w : Work}
    (h : sealEnvelope s.config.hkdfInfo s.rngFail s.work s.srcBytes s.keyBytes = (.err e, w)) :
    execBody .encrypt s = .raise e w := by
  rw [execBody, encryptBody, afterPrologue_none hp, h]

theorem execBody_encrypt_of_ok {s : State} (hp : prologue .encrypt s = none) {e : Bytes} {w : Work}
    (h : sealEnvelope s.config.hkdfInfo s.rngFail s.work s.srcBytes s.keyBytes = (.ok e, w)) :
    execBody .encrypt s = .success [(s.dstAt, e)] (BitVec.ofNat 32 (s.srcN + 60)) none w := by
  rw [execBody, encryptBody, afterPrologue_none hp, h]

/-- With RNG_FAIL set no request reaches the oracle. -/
theorem exec_encrypt_of_rngFail {s : State} (hp : prologue .encrypt s = none) (hr : s.rngFail = true) :
    exec .encrypt s =
      .next { s with result := 0x00000000, err := 0x06, busy := false, secrets := Secrets.zero } := by
  rw [exec_eq, execBody_encrypt_rngFail hr hp, complete_raise_work]
  rfl

section
variable {s : State} (hp : prologue .encrypt s = none) (hr : s.rngFail = false)
include hp hr

theorem exec_encrypt_of_key_draw_none (hnone : s.work.nextAnswer 32 = none) :
    exec .encrypt s =
      .next { s with
        result := 0x00000000
        err := 0x06
        rngFail := true
        busy := false
        secrets := Secrets.zero
        entropy := s.entropy.tail
        draws := s.draws + 1 } := by
  rw [exec_eq, execBody_encrypt_of_err hp (hr ▸ sealEnvelope_of_key_draw_none _ _ hnone),
    complete_raise_failed s _ rfl]
  rfl

variable {raw : Bytes} (hraw : s.work.nextAnswer 32 = some raw)
include hraw

theorem exec_encrypt_of_zero_secret (hzero : x25519 (clamp raw) (s.memRead s.keyAddr.toNat 32) = zeros 32) :
    exec .encrypt s =
      .next { s with
        result := 0x00000000
        err := 0x02
        busy := false
        secrets := Secrets.zero
        entropy := s.entropy.tail
        draws := s.draws + 1 } := by
  rw [exec_eq, execBody_encrypt_of_err hp (hr ▸ sealEnvelope_of_zero_secret _ _ hraw hzero),
    complete_raise_drawn s _ rfl]
  rfl

variable (hzero : x25519 (clamp raw) (s.memRead s.keyAddr.toNat 32) ≠ zeros 32)
include hzero

theorem exec_encrypt_of_nonce_draw_none (hnone : s.work.advance.nextAnswer 12 = none) :
    exec .encrypt s =
      .next { s with
        result := 0x00000000
        err := 0x06
        rngFail := true
        busy := false
        secrets := Secrets.zero
        entropy := s.entropy.tail.tail
        draws := s.draws + 2 } := by
  rw [exec_eq, execBody_encrypt_of_err hp (hr ▸ sealEnvelope_of_nonce_draw_none _ _ hraw hzero hnone),
    complete_raise_failed s _ rfl]
  rfl

theorem exec_encrypt_of_draws {nonce : Bytes} (hnonce : s.work.advance.nextAnswer 12 = some nonce) :
    exec .encrypt s =
      .next { s with
        buf := s.buf.setBytes s.dstAddr.toNat
          (envelope (x25519 (clamp raw) basePoint) nonce
            (gcmAE (kdf s.config.hkdfInfo (x25519 (clamp raw) (s.memRead s.keyAddr.toNat 32))) nonce
              (s.memRead s.srcAddr.toNat s.srcLen.toNat) []).1
            (gcmAE (kdf s.config.hkdfInfo (x25519 (clamp raw) (s.memRead s.keyAddr.toNat 32))) nonce
              (s.memRead s.srcAddr.toNat s.srcLen.toNat) []).2)
        result := BitVec.ofNat 32 (s.srcLen.toNat + 60)
        err := 0x00
        busy := false
        secrets := Secrets.zero
        entropy := s.entropy.tail.tail
        draws := s.draws + 2 } := by
  rw [exec_eq, execBody_encrypt_of_ok hp (hr ▸ sealEnvelope_of_draws _ _ hraw hzero hnonce),
    complete_success_drawn s _ _ rfl]
  rfl

end

/-! ### DECRYPT (R275) -/

theorem prologue_decrypt_eq_none {s : State} (hmin : 60 ≤ s.srcLen.toNat) (hkey : s.keyLen.toNat = 32)
    (hcap : s.srcLen.toNat - 60 ≤ s.dstCap.toNat) (hsrc : s.srcAddr.toNat + s.srcLen.toNat ≤ s.config.bufSize)
    (hkeyIn : s.keyAddr.toNat + 32 ≤ s.config.bufSize)
    (hdst : s.dstAddr.toNat + (s.srcLen.toNat - 60) ≤ s.config.bufSize) : prologue .decrypt s = none := by
  rw [prologue_decrypt, if_neg (Nat.not_lt.2 hmin), if_neg (not_not.2 hkey), if_neg (Nat.not_lt.2 hcap),
    if_neg (Nat.not_lt.2 hsrc), if_neg (Nat.not_lt.2 hkeyIn), if_neg (Nat.not_lt.2 hdst)]

theorem execBody_decrypt_of_err {s : State} (hp : prologue .decrypt s = none) {e : ErrorCode} {w : Work}
    (h : openEnvelope s.config.hkdfInfo s.work s.srcBytes s.keyBytes = (.err e, w)) :
    execBody .decrypt s = .raise e w := by
  rw [execBody, decryptBody, afterPrologue_none hp, h]

theorem execBody_decrypt_of_ok {s : State} (hp : prologue .decrypt s = none) {p : Bytes} {w : Work}
    (h : openEnvelope s.config.hkdfInfo s.work s.srcBytes s.keyBytes = (.ok p, w)) :
    execBody .decrypt s = .success [(s.dstAt, p)] (BitVec.ofNat 32 (s.srcN - 60)) none w := by
  rw [execBody, decryptBody, afterPrologue_none hp, h]

/-- The bytes DECRYPT reads are an envelope's length. -/
theorem srcBytes_length_of_prologue_decrypt {s : State} (hp : prologue .decrypt s = none) :
    60 ≤ s.srcBytes.length := by
  obtain ⟨hmin, -⟩ := (prologue_eq_none_iff .decrypt s).1 hp
  rw [State.srcBytes, State.memRead_length]
  exact hmin rfl

theorem exec_decrypt_of_zero_secret {s : State} (hp : prologue .decrypt s = none)
    (hzero : x25519 (clamp s.keyBytes) (envEpk s.srcBytes) = zeros 32) :
    exec .decrypt s =
      .next { s with result := 0x00000000, err := 0x02, busy := false, secrets := Secrets.zero } := by
  obtain ⟨w, ⟨hentropy, hdraws, hfailed⟩, h⟩ :=
    openEnvelope_of_zero_secret s.config.hkdfInfo s.work (srcBytes_length_of_prologue_decrypt hp) hzero
  rw [exec_eq, execBody_decrypt_of_err hp h, complete_raise_drawn s _ hfailed, hentropy, hdraws]
  rfl

section
variable {s : State} (hp : prologue .decrypt s = none)
  (hzero : x25519 (clamp s.keyBytes) (envEpk s.srcBytes) ≠ zeros 32)
include hp hzero

theorem exec_decrypt_of_bad_tag
    (hbad : gcmAD (kdf s.config.hkdfInfo (x25519 (clamp s.keyBytes) (envEpk s.srcBytes))) (envNonce s.srcBytes)
      (envCiphertext s.srcBytes) [] (envTag s.srcBytes) = none) :
    exec .decrypt s =
      .next { s with result := 0x00000000, err := 0x05, busy := false, secrets := Secrets.zero } := by
  obtain ⟨w, ⟨hentropy, hdraws, hfailed⟩, h⟩ :=
    openEnvelope_of_secret s.config.hkdfInfo s.work (srcBytes_length_of_prologue_decrypt hp) hzero
  rw [hbad] at h
  rw [exec_eq, execBody_decrypt_of_err hp h, complete_raise_drawn s _ hfailed, hentropy, hdraws]
  rfl

theorem exec_decrypt_of_good_tag {p : Bytes}
    (hgood : gcmAD (kdf s.config.hkdfInfo (x25519 (clamp s.keyBytes) (envEpk s.srcBytes))) (envNonce s.srcBytes)
      (envCiphertext s.srcBytes) [] (envTag s.srcBytes) = some p) :
    exec .decrypt s =
      .next { s with
        buf := s.buf.setBytes s.dstAddr.toNat p
        result := BitVec.ofNat 32 (s.srcLen.toNat - 60)
        err := 0x00
        busy := false
        secrets := Secrets.zero } := by
  obtain ⟨w, ⟨hentropy, hdraws, hfailed⟩, h⟩ :=
    openEnvelope_of_secret s.config.hkdfInfo s.work (srcBytes_length_of_prologue_decrypt hp) hzero
  rw [hgood] at h
  rw [exec_eq, execBody_decrypt_of_ok hp h, complete_success_drawn s _ _ hfailed, hentropy, hdraws]
  rfl

end

end Sys2Proof.Machine
end

section
/-! PROOFS. What an ENCRYPT that succeeded wrote, opened again (R276). -/

namespace Sys2Proof.Machine

/-- A successful ENCRYPT drew a nonce, and stored the envelope sealed over its plaintext. -/
theorem buf_of_encrypt_success {s t : State} {raw : Bytes} (h : exec .encrypt s = .next t) (herr : t.err = 0x00)
    (hraw : s.work.nextAnswer 32 = some raw) :
    x25519 (clamp raw) (s.memRead s.keyAddr.toNat 32) ≠ zeros 32 ∧
    ∃ nonce : Bytes, nonce.length = 12 ∧
      t.buf = s.buf.setBytes s.dstAddr.toNat
        (envelope (x25519 (clamp raw) basePoint) nonce
          (gcmAE (kdf s.config.hkdfInfo (x25519 (clamp raw) (s.memRead s.keyAddr.toNat 32))) nonce
            (s.memRead s.srcAddr.toNat s.srcLen.toNat) []).1
          (gcmAE (kdf s.config.hkdfInfo (x25519 (clamp raw) (s.memRead s.keyAddr.toNat 32))) nonce
            (s.memRead s.srcAddr.toNat s.srcLen.toNat) []).2) := by
  have hp := prologue_eq_none_of_success h herr
  cases hr : s.rngFail with
  | true =>
    rw [exec_encrypt_of_rngFail hp hr] at h
    injection h with h
    exact absurd ((congrArg State.err h).trans herr) (ErrorCode.code_ne_zero .randomSourceFailure)
  | false =>
    by_cases hzero : x25519 (clamp raw) (s.memRead s.keyAddr.toNat 32) = zeros 32
    · rw [exec_encrypt_of_zero_secret hp hr hraw hzero] at h
      injection h with h
      exact absurd ((congrArg State.err h).trans herr) (ErrorCode.code_ne_zero .invalidPeerPoint)
    · cases hnonce : s.work.advance.nextAnswer 12 with
      | none =>
        rw [exec_encrypt_of_nonce_draw_none hp hr hraw hzero hnonce] at h
        injection h with h
        exact absurd ((congrArg State.err h).trans herr) (ErrorCode.code_ne_zero .randomSourceFailure)
      | some nonce =>
        rw [exec_encrypt_of_draws hp hr hraw hzero hnonce] at h
        injection h with h
        exact ⟨hzero, nonce, nextAnswer_length hnonce, by rw [← h]⟩

theorem sealed_length {epk nonce k p : Bytes} (hepk : epk.length = 32) (hnonce : nonce.length = 12)
    (hk : k.length = 32) :
    (envelope epk nonce (gcmAE k nonce p []).1 (gcmAE k nonce p []).2).length = p.length + 60 := by
  have htag : (gcmAE k nonce p []).2.length = 16 := gcmTag_length _ _ _ _ hk
  rw [envelope_length _ _ _ _ hepk hnonce htag]
  exact congrArg (· + 60) (gcmText_length k nonce p hk)

/-- DECRYPT of an envelope sealed under the shared secret that it computes itself gives the plaintext. -/
theorem exec_decrypt_of_envelope {s : State} (hp : prologue .decrypt s = none) {epk nonce p ss : Bytes}
    (hepk : epk.length = 32) (hnonce : nonce.length = 12) (hss : x25519 (clamp s.keyBytes) epk = ss)
    (hzero : ss ≠ zeros 32)
    (hsrc : s.srcBytes = envelope epk nonce (gcmAE (kdf s.config.hkdfInfo ss) nonce p []).1
      (gcmAE (kdf s.config.hkdfInfo ss) nonce p []).2) :
    exec .decrypt s =
      .next { s with
        buf := s.buf.setBytes s.dstAddr.toNat p
        result := BitVec.ofNat 32 (s.srcLen.toNat - 60)
        err := 0x00
        busy := false
        secrets := Secrets.zero } := by
  have hkdf : (kdf s.config.hkdfInfo ss).length = 32 := kdf_length _ _
  have htag : (gcmAE (kdf s.config.hkdfInfo ss) nonce p []).2.length = 16 := gcmTag_length _ _ _ _ hkdf
  have hfield : envEpk s.srcBytes = epk := by rw [hsrc, envEpk_envelope hepk]
  refine exec_decrypt_of_good_tag hp (by rwa [hfield, hss]) ?_
  rw [hfield, hss, hsrc, envNonce_envelope hepk hnonce, envCiphertext_envelope hepk hnonce htag,
    envTag_envelope hepk hnonce htag, gcmAD_gcmAE hkdf]

end Sys2Proof.Machine
end

section
/-! PROOFS. The statements on key pairs and envelopes (42_x25519.md, 45_envelope.md). -/

namespace Sys2Proof.Proofs

open Sys2Proof Sys2Proof.Machine

/-- Settles O23: the prologue's two checks, RNG_FAIL, and the oracle's answer decide between the clauses. -/
theorem keygenWritesAFreshKeyPair : Obligations.KeygenWritesAFreshKeyPair := by
  refine ⟨rfl, fun s hcap => ?_, fun s hcap hdst => ?_, fun s hcap hdst hr => ?_, fun s hcap hdst hr hnone => ?_,
    fun s raw hcap hdst hr hraw => ?_⟩
  · exact exec_of_prologue_some (e := .bufferTooSmall) (by rw [prologue_keygen, if_pos hcap])
  · exact exec_of_prologue_some (e := .addressRange) (by rw [prologue_keygen, if_neg (by omega), if_pos hdst])
  · exact exec_keygen_of_rngFail (prologue_keygen_eq_none hcap hdst) hr
  · exact exec_keygen_of_none (prologue_keygen_eq_none hcap hdst) hr hnone
  · exact exec_keygen_of_some (prologue_keygen_eq_none hcap hdst) hr hraw

/-- Settles O24: the prologue's checks decide between the clauses. -/
theorem derivePublicWritesThePublicKey : Obligations.DerivePublicWritesThePublicKey := by
  refine ⟨rfl, fun s hkey => ?_, fun s hkey hcap => ?_, fun s hkey hcap hregion => ?_,
    fun s hkey hcap hkeyIn hdst => ?_⟩
  · exact exec_of_prologue_some (e := .invalidKeyLength) (by rw [prologue_derivePublic, if_pos hkey])
  · exact exec_of_prologue_some (e := .bufferTooSmall)
      (by rw [prologue_derivePublic, if_neg (by omega), if_pos hcap])
  · refine exec_of_prologue_some (e := .addressRange) ?_
    rw [prologue_derivePublic, if_neg (by omega), if_neg (by omega)]
    split_ifs
    · rfl
    · rfl
    · omega
  · refine exec_derivePublic_success ?_
    rw [prologue_derivePublic, if_neg (by omega), if_neg (by omega), if_neg (by omega), if_neg (by omega)]

/-- Settles O25: both commands clamp what they take, and clamping twice is clamping once. -/
theorem keygenAndDerivePublicAgree : Obligations.KeygenAndDerivePublicAgree := by
  intro s t s' t' raw h herr hraw hkey h' herr'
  have hclamp : (clamp raw).length = 32 := (clamp_length raw).trans (nextAnswer_length hraw)
  obtain ⟨hprivate, hpublic⟩ := memRead_of_buf_eq_append (buf_of_keygen_success h herr hraw)
  rw [hclamp] at hprivate hpublic
  rw [x25519_length] at hpublic
  have hsame : clamp (s'.memRead s'.keyAddr.toNat 32) = clamp raw := by
    rcases hkey with hdraw | hstored
    · rw [hdraw]
    · rw [hstored, hprivate, clamp_clamp]
  rw [exec_derivePublic_success (prologue_eq_none_of_success h' herr')] at h'
  injection h' with h'
  have hbuf : t'.buf = s'.buf.setBytes s'.dstAddr.toNat
      (x25519 (clamp (s'.memRead s'.keyAddr.toNat 32)) basePoint) := by rw [← h']
  have hderived := memRead_of_buf_eq hbuf
  rw [x25519_length, hsame] at hderived
  exact ⟨hprivate, hderived.trans hpublic.symm⟩

/-- Settles O35: the prologue's checks, RNG_FAIL, the two draws and the shared secret decide between the clauses. -/
theorem encryptSealsAnEnvelope : Obligations.EncryptSealsAnEnvelope := by
  refine ⟨rfl, fun s hkey => ?_, fun s hkey hcap => ?_, fun s hkey hcap hregion => ?_,
    fun s hkey hcap hsrc hkeyIn hdst => ?_⟩
  · exact exec_of_prologue_some (e := .invalidKeyLength) (by rw [prologue_encrypt, if_pos hkey])
  · exact exec_of_prologue_some (e := .bufferTooSmall) (by rw [prologue_encrypt, if_neg (by omega), if_pos hcap])
  · refine exec_of_prologue_some (e := .addressRange) ?_
    rw [prologue_encrypt, if_neg (by omega), if_neg (by omega)]
    split_ifs
    · rfl
    · rfl
    · rfl
    · omega
  · have hp := prologue_encrypt_eq_none hkey hcap hsrc hkeyIn hdst
    exact ⟨exec_encrypt_of_rngFail hp, exec_encrypt_of_key_draw_none hp, fun raw hr hraw =>
      ⟨exec_encrypt_of_zero_secret hp hr hraw, fun hzero =>
        ⟨exec_encrypt_of_nonce_draw_none hp hr hraw hzero, fun _ => exec_encrypt_of_draws hp hr hraw hzero⟩⟩⟩

/-- Settles O36: the prologue's checks, the shared secret and the tag decide between the clauses. -/
theorem decryptOpensAnEnvelope : Obligations.DecryptOpensAnEnvelope := by
  refine ⟨rfl, fun s hmin => ?_, fun s hmin hkey => ?_, fun s hmin hkey hcap => ?_, fun s hmin hkey hcap hregion => ?_,
    fun s E ss hmin hkey hcap hsrc hkeyIn hdst hE hss => ?_⟩
  · exact exec_of_prologue_some (e := .malformedEnvelope) (by rw [prologue_decrypt, if_pos hmin])
  · exact exec_of_prologue_some (e := .invalidKeyLength) (by rw [prologue_decrypt, if_neg (by omega), if_pos hkey])
  · exact exec_of_prologue_some (e := .bufferTooSmall)
      (by rw [prologue_decrypt, if_neg (by omega), if_neg (by omega), if_pos hcap])
  · refine exec_of_prologue_some (e := .addressRange) ?_
    rw [prologue_decrypt, if_neg (by omega), if_neg (by omega), if_neg (by omega)]
    split_ifs
    · rfl
    · rfl
    · rfl
    · omega
  · have hp := prologue_decrypt_eq_none hmin hkey hcap hsrc hkeyIn hdst
    subst hE hss
    exact ⟨exec_decrypt_of_zero_secret hp, fun hzero =>
      ⟨exec_decrypt_of_bad_tag hp hzero, fun _ => exec_decrypt_of_good_tag hp hzero⟩⟩

/-- Settles O22: the ladder gives 0 at u = 0, so both commands find the zero secret. -/
theorem zeroPointIsRejected : Obligations.ZeroPointIsRejected := by
  refine ⟨fun _ _ => x25519_of_decodeU_eq_zero, fun s raw hkey hcap hsrc hkeyIn hdst hr hraw hpoint => ?_,
    fun s hmin hkey hcap hsrc hkeyIn hdst hpoint => ?_⟩
  · exact exec_encrypt_of_zero_secret (prologue_encrypt_eq_none hkey hcap hsrc hkeyIn hdst) hr hraw
      (x25519_of_decodeU_eq_zero hpoint)
  · have hepk : envEpk s.srcBytes = s.memRead s.srcAddr.toNat 32 := by
      obtain ⟨n, hn⟩ : ∃ n, s.srcLen.toNat = 32 + n := ⟨s.srcLen.toNat - 32, by omega⟩
      rw [envEpk, slice, State.srcBytes, State.srcAt, State.srcN, hn, State.memRead_add, List.drop_zero,
        List.take_left' (State.memRead_length ..)]
    exact exec_decrypt_of_zero_secret (prologue_decrypt_eq_none hmin hkey hcap hsrc hkeyIn hdst)
      (x25519_of_decodeU_eq_zero (hepk ▸ hpoint))

/-- Settles O38: DECRYPT reads the envelope ENCRYPT stored, and both sides have the same shared secret. -/
theorem decryptUndoesEncrypt : Obligations.DecryptUndoesEncrypt := by
  intro s t s' raw h herr hraw hcommute hinfo hlen hsrc hkey hcap hsrcIn hkeyIn hdst
  obtain ⟨hzero, nonce, hnonce, hbuf⟩ := buf_of_encrypt_success h herr hraw
  have hsealed := memRead_of_buf_eq hbuf
  rw [sealed_length (x25519_length _ _) hnonce (kdf_length _ _), State.memRead_length, ← hinfo] at hsealed
  have hout : s'.srcLen.toNat - 60 = s.srcLen.toNat := by omega
  have hp : prologue .decrypt s' = none :=
    prologue_decrypt_eq_none (by omega) hkey (by omega) hsrcIn hkeyIn (by omega)
  have hopen := exec_decrypt_of_envelope hp (p := s.memRead s.srcAddr.toNat s.srcLen.toNat) (x25519_length _ _) hnonce
    hcommute hzero (hsrc.trans hsealed)
  refine ⟨_, hopen, rfl, ?_, ?_⟩
  · show BitVec.ofNat 32 (s'.srcLen.toNat - 60) = s.srcLen
    rw [hout, BitVec.ofNat_toNat, BitVec.setWidth_eq]
  · have hread := memRead_of_buf_eq (s := s') (a := s'.dstAddr.toNat) (v := s.memRead s.srcAddr.toNat s.srcLen.toNat)
      (t := { s' with
        buf := s'.buf.setBytes s'.dstAddr.toNat (s.memRead s.srcAddr.toNat s.srcLen.toNat)
        result := BitVec.ofNat 32 (s'.srcLen.toNat - 60)
        err := 0x00
        busy := false
        secrets := Secrets.zero }) rfl
    rwa [State.memRead_length] at hread

/-- Settles O39: bit 255 is masked off before X25519 sees the key, and no other field holds it. -/
theorem bit255OfTheEphemeralKeyIsIgnored : Obligations.Bit255OfTheEphemeralKeyIsIgnored := fun info w _ sk hlen =>
  openEnvelope_flip_bit_255 info w sk hlen

end Sys2Proof.Proofs
end

section
/-! PROOFS. What a command's outcome depends on: two states that agree on the inputs R103, R107 and R136 name for it
give the same outcome and the same use of the oracle. -/

namespace Sys2Proof.Machine

/-! ### The oracle's side -/

theorem Work.SameOracle.trans {w w' w'' : Work} (h : w.SameOracle w') (h' : w'.SameOracle w'') : w.SameOracle w'' :=
  ⟨h.entropy.trans h'.entropy, h.draws.trans h'.draws, h.rngFailed.trans h'.rngFailed⟩

theorem Work.SameOracle.symm {w w' : Work} (h : w.SameOracle w') : w'.SameOracle w :=
  ⟨h.entropy.symm, h.draws.symm, h.rngFailed.symm⟩

theorem Work.SameOracle.nextAnswer {w w' : Work} (h : w.SameOracle w') (n : Nat) :
    w.nextAnswer n = w'.nextAnswer n := nextAnswer_congr h.entropy h.draws n

theorem Work.SameOracle.advance {w w' : Work} (h : w.SameOracle w') : w.advance.SameOracle w'.advance :=
  ⟨congrArg List.tail h.entropy, congrArg (· + 1) h.draws, h.rngFailed⟩

/-- SECRETS stand on the block's side. -/
theorem Work.SameOracle.withSecrets {w w' : Work} (h : w.SameOracle w') {x x' : Secrets} :
    { w with secrets := x }.SameOracle { w' with secrets := x' } := ⟨h.entropy, h.draws, h.rngFailed⟩

/-- Marking a failed draw looks at no other field. -/
theorem Work.SameOracle.failed {w w' : Work} (h : w.SameOracle w') :
    { w with rngFailed := true }.SameOracle { w' with rngFailed := true } := ⟨h.entropy, h.draws, rfl⟩

theorem generateKeyPair_congr {w w' : Work} (h : w.SameOracle w') (b : Bool) :
    (generateKeyPair b w).1 = (generateKeyPair b w').1 ∧
      (generateKeyPair b w).2.SameOracle (generateKeyPair b w').2 := by
  cases b with
  | true => exact ⟨rfl, h⟩
  | false =>
    cases hraw : w.nextAnswer 32 with
    | none =>
      rw [generateKeyPair_of_none hraw, generateKeyPair_of_none ((h.nextAnswer 32).symm.trans hraw)]
      exact ⟨rfl, h.advance.failed⟩
    | some raw =>
      rw [generateKeyPair_of_some hraw, generateKeyPair_of_some ((h.nextAnswer 32).symm.trans hraw)]
      exact ⟨rfl, h.advance.withSecrets⟩

theorem sealEnvelope_congr {w w' : Work} (h : w.SameOracle w') (info : Bytes) (b : Bool) (p pk : Bytes) :
    (sealEnvelope info b w p pk).1 = (sealEnvelope info b w' p pk).1 ∧
      (sealEnvelope info b w p pk).2.SameOracle (sealEnvelope info b w' p pk).2 := by
  have hanswer : w'.nextAnswer 32 = w.nextAnswer 32 := (h.nextAnswer 32).symm
  have hanswer' : w'.advance.nextAnswer 12 = w.advance.nextAnswer 12 := (h.advance.nextAnswer 12).symm
  cases b with
  | true => exact ⟨rfl, h⟩
  | false =>
    cases hraw : w.nextAnswer 32 with
    | none =>
      rw [sealEnvelope_of_key_draw_none _ _ hraw, sealEnvelope_of_key_draw_none _ _ (hanswer.trans hraw)]
      exact ⟨rfl, h.advance.failed⟩
    | some raw =>
      by_cases hzero : x25519 (clamp raw) pk = zeros 32
      · rw [sealEnvelope_of_zero_secret _ _ hraw hzero, sealEnvelope_of_zero_secret _ _ (hanswer.trans hraw) hzero]
        exact ⟨rfl, h.advance.withSecrets⟩
      · cases hnonce : w.advance.nextAnswer 12 with
        | none =>
          rw [sealEnvelope_of_nonce_draw_none _ _ hraw hzero hnonce,
            sealEnvelope_of_nonce_draw_none _ _ (hanswer.trans hraw) hzero (hanswer'.trans hnonce)]
          exact ⟨rfl, h.advance.advance.failed.withSecrets⟩
        | some nonce =>
          rw [sealEnvelope_of_draws _ _ hraw hzero hnonce,
            sealEnvelope_of_draws _ _ (hanswer.trans hraw) hzero (hanswer'.trans hnonce)]
          exact ⟨rfl, h.advance.advance.withSecrets⟩

theorem openEnvelope_congr {w w' : Work} (h : w.SameOracle w') (info : Bytes) {e : Bytes} (sk : Bytes)
    (hlen : 60 ≤ e.length) :
    (openEnvelope info w e sk).1 = (openEnvelope info w' e sk).1 ∧
      (openEnvelope info w e sk).2.SameOracle (openEnvelope info w' e sk).2 := by
  by_cases hzero : x25519 (clamp sk) (envEpk e) = zeros 32
  · obtain ⟨u, hu, heq⟩ := openEnvelope_of_zero_secret info w hlen hzero
    obtain ⟨u', hu', heq'⟩ := openEnvelope_of_zero_secret info w' hlen hzero
    rw [heq, heq']
    exact ⟨rfl, hu.trans (h.trans hu'.symm)⟩
  · obtain ⟨u, hu, heq⟩ := openEnvelope_of_secret info w hlen hzero
    obtain ⟨u', hu', heq'⟩ := openEnvelope_of_secret info w' hlen hzero
    rw [heq, heq']
    exact ⟨rfl, hu.trans (h.trans hu'.symm)⟩

/-! ### The inputs of a command -/

/-- Agreement on what the command `i` may look at: the parameters BUF_SIZE and HKDF_INFO, CRC_STATE, RNG_FAIL, the
oracle's side, and the operands its row of R103 names. -/
structure AgreeOnInputs (i : Instr) (s s' : State) : Prop where
  bufSize  : s.config.bufSize = s'.config.bufSize
  hkdfInfo : s.config.hkdfInfo = s'.config.hkdfInfo
  crcState : s.crcState = s'.crcState
  rngFail  : s.rngFail = s'.rngFail
  oracle   : s.work.SameOracle s'.work
  src      : readsSrc i = true → s.srcAddr = s'.srcAddr ∧ s.srcLen = s'.srcLen ∧ s.srcBytes = s'.srcBytes
  key      : readsKey i = true → s.keyAddr = s'.keyAddr ∧ s.keyLen = s'.keyLen ∧ s.keyBytes = s'.keyBytes
  dst      : writesDst i = true → s.dstAddr = s'.dstAddr ∧ s.dstCap = s'.dstCap

theorem AgreeOnInputs.prologue {i : Instr} {s s' : State} (h : AgreeOnInputs i s s') :
    prologue i s = prologue i s' := by
  cases i with
  | crcInit | crcFinalize => rfl
  | crcUpdate =>
    obtain ⟨hsrc, hlen, -⟩ := h.src rfl
    rw [prologue_crcUpdate, prologue_crcUpdate, hsrc, hlen, h.bufSize]
  | crcCompute =>
    obtain ⟨hsrc, hlen, -⟩ := h.src rfl
    rw [prologue_crcCompute, prologue_crcCompute, hsrc, hlen, h.bufSize]
  | keygen =>
    obtain ⟨hdst, hcap⟩ := h.dst rfl
    rw [prologue_keygen, prologue_keygen, hdst, hcap, h.bufSize]
  | derivePublic =>
    obtain ⟨hkey, hkeyLen, -⟩ := h.key rfl
    obtain ⟨hdst, hcap⟩ := h.dst rfl
    rw [prologue_derivePublic, prologue_derivePublic, hkey, hkeyLen, hdst, hcap, h.bufSize]
  | encrypt =>
    obtain ⟨hsrc, hlen, -⟩ := h.src rfl
    obtain ⟨hkey, hkeyLen, -⟩ := h.key rfl
    obtain ⟨hdst, hcap⟩ := h.dst rfl
    rw [prologue_encrypt, prologue_encrypt, hsrc, hlen, hkey, hkeyLen, hdst, hcap, h.bufSize]
  | decrypt =>
    obtain ⟨hsrc, hlen, -⟩ := h.src rfl
    obtain ⟨hkey, hkeyLen, -⟩ := h.key rfl
    obtain ⟨hdst, hcap⟩ := h.dst rfl
    rw [prologue_decrypt, prologue_decrypt, hsrc, hlen, hkey, hkeyLen, hdst, hcap, h.bufSize]

/-- The same outcome, with the same use of the oracle. -/
def ExecResult.Same (r r' : ExecResult) : Prop := r.outcome = r'.outcome ∧ r.work.SameOracle r'.work

/-- What ENCRYPT and DECRYPT make of the answer of `seal` and `open`: an error, or the answer stored at dstR. -/
def storeEnvResult (dst : Nat) (res : Word) : EnvResult × Work → ExecResult
  | (.err e, w) => .raise e w
  | (.ok bs, w) => .success [(dst, bs)] res none w

theorem encryptBody_eq (s : State) :
    encryptBody s = afterPrologue .encrypt s (storeEnvResult s.dstAt (BitVec.ofNat 32 (s.srcN + 60))
      (sealEnvelope s.config.hkdfInfo s.rngFail s.work s.srcBytes s.keyBytes)) := rfl

theorem decryptBody_eq (s : State) :
    decryptBody s = afterPrologue .decrypt s (storeEnvResult s.dstAt (BitVec.ofNat 32 (s.srcN - 60))
      (openEnvelope s.config.hkdfInfo s.work s.srcBytes s.keyBytes)) := rfl

theorem storeEnvResult_same (dst : Nat) (res : Word) {x x' : EnvResult × Work} (h : x.1 = x'.1)
    (hw : x.2.SameOracle x'.2) : (storeEnvResult dst res x).Same (storeEnvResult dst res x') := by
  obtain ⟨r, w⟩ := x
  obtain ⟨r', w'⟩ := x'
  obtain rfl : r = r' := h
  cases r <;> exact ⟨rfl, hw⟩

/-- The outcome of a command is a function of its inputs (R136). -/
theorem AgreeOnInputs.execBody {i : Instr} {s s' : State} (h : AgreeOnInputs i s s') :
    (execBody i s).Same (execBody i s') := by
  cases hp : Machine.prologue i s with
  | some e =>
    rw [execBody_of_prologue_some hp, execBody_of_prologue_some (h.prologue.symm.trans hp)]
    exact ⟨rfl, h.oracle⟩
  | none =>
    have hp' := h.prologue.symm.trans hp
    cases i with
    | crcInit => exact ⟨rfl, h.oracle⟩
    | crcUpdate =>
      obtain ⟨-, -, hbytes⟩ := h.src rfl
      rw [Machine.execBody, Machine.execBody, crcUpdateBody, crcUpdateBody, afterPrologue_none hp,
        afterPrologue_none hp', h.crcState, hbytes]
      exact ⟨rfl, h.oracle⟩
    | crcFinalize =>
      rw [Machine.execBody, Machine.execBody, crcFinalizeBody, crcFinalizeBody, afterPrologue_none hp,
        afterPrologue_none hp', h.crcState]
      exact ⟨rfl, h.oracle⟩
    | crcCompute =>
      obtain ⟨-, -, hbytes⟩ := h.src rfl
      rw [Machine.execBody, Machine.execBody, crcComputeBody, crcComputeBody, afterPrologue_none hp,
        afterPrologue_none hp', hbytes]
      exact ⟨rfl, h.oracle⟩
    | derivePublic =>
      obtain ⟨-, -, hbytes⟩ := h.key rfl
      obtain ⟨hdst, -⟩ := h.dst rfl
      rw [Machine.execBody, Machine.execBody, derivePublicBody, derivePublicBody, afterPrologue_none hp,
        afterPrologue_none hp', hbytes, State.dstAt, State.dstAt, hdst]
      exact ⟨rfl, h.oracle.withSecrets⟩
    | keygen =>
      obtain ⟨hdst, -⟩ := h.dst rfl
      obtain ⟨hpair, hwork⟩ := generateKeyPair_congr h.oracle s.rngFail
      rw [Machine.execBody, Machine.execBody, keygenBody, keygenBody, afterPrologue_none hp, afterPrologue_none hp',
        ← h.rngFail, State.dstAt, State.dstAt, hdst]
      generalize generateKeyPair s.rngFail s.work = x at hpair hwork ⊢
      generalize generateKeyPair s.rngFail s'.work = x' at hpair hwork ⊢
      obtain ⟨pair, w⟩ := x
      obtain ⟨pair', w'⟩ := x'
      obtain rfl : pair = pair' := hpair
      cases pair <;> exact ⟨rfl, hwork⟩
    | encrypt =>
      obtain ⟨-, hlen, hbytes⟩ := h.src rfl
      obtain ⟨-, -, hkeyBytes⟩ := h.key rfl
      obtain ⟨hdst, -⟩ := h.dst rfl
      obtain ⟨hresult, hwork⟩ := sealEnvelope_congr h.oracle s.config.hkdfInfo s.rngFail s.srcBytes s.keyBytes
      rw [Machine.execBody, Machine.execBody, encryptBody_eq, encryptBody_eq, afterPrologue_none hp,
        afterPrologue_none hp', ← h.rngFail, ← h.hkdfInfo, ← hbytes, ← hkeyBytes, State.dstAt, State.dstAt, hdst,
        State.srcN, State.srcN, hlen]
      exact storeEnvResult_same _ _ hresult hwork
    | decrypt =>
      obtain ⟨-, hlen, hbytes⟩ := h.src rfl
      obtain ⟨-, -, hkeyBytes⟩ := h.key rfl
      obtain ⟨hdst, -⟩ := h.dst rfl
      obtain ⟨hresult, hwork⟩ := openEnvelope_congr h.oracle s.config.hkdfInfo s.keyBytes
        (srcBytes_length_of_prologue_decrypt hp)
      rw [Machine.execBody, Machine.execBody, decryptBody_eq, decryptBody_eq, afterPrologue_none hp,
        afterPrologue_none hp', ← h.hkdfInfo, ← hbytes, ← hkeyBytes, State.dstAt, State.dstAt, hdst, State.srcN,
        State.srcN, hlen]
      exact storeEnvResult_same _ _ hresult hwork

/-! ### The destination bytes of a success -/

theorem generateKeyPair_some_length {b : Bool} {w w' : Work} {sk pk : Bytes}
    (h : generateKeyPair b w = (some (sk, pk), w')) : (sk ++ pk).length = 64 := by
  rcases generateKeyPair_cases b w with ⟨-, hg⟩ | ⟨-, -, hg⟩ | ⟨-, raw, -, hlen, hg⟩
  · rw [hg] at h; cases h
  · rw [hg] at h; cases h
  · rw [hg] at h; cases h
    rw [List.length_append, clamp_length, hlen, x25519_length]

theorem keygenBody_failsOrStoresOutlen (s : State) : FailsOrStoresOutlen .keygen s (keygenBody s) := by
  refine failsOrStoresOutlen_afterPrologue fun hp => ?_
  split
  · next w _ => exact .inl ⟨_, w, rfl⟩
  · next sk pk w hpair => exact .inr ⟨hp, sk ++ pk, w, generateKeyPair_some_length hpair, rfl⟩

/-- A command with a destination that succeeds stores `outlen` bytes at dstR (R103). -/
theorem execBody_failsOrStoresOutlen {i : Instr} (hw : writesDst i = true) (s : State) :
    FailsOrStoresOutlen i s (execBody i s) := by
  cases i with
  | crcInit | crcUpdate | crcFinalize | crcCompute => cases hw
  | keygen => exact keygenBody_failsOrStoresOutlen s
  | derivePublic => exact failsOrStoresOutlen_afterPrologue fun hp => .inr ⟨hp, _, _, x25519_length _ _, rfl⟩
  | encrypt => exact encryptBody_failsOrStoresOutlen s
  | decrypt => exact decryptBody_failsOrStoresOutlen s

/-- The stored bytes are those of the outcome. -/
theorem memRead_complete_of_ok {s : State} {r : ExecResult} {a n : Nat} {v : Bytes} {res : Word} {crc : Option Word}
    (hr : r.outcome = .ok [(a, v)] res crc) (hlen : v.length = n) : (s.complete r).memRead a n = v := by
  have hbuf : (s.complete r).buf = s.buf.setBytes a v := by
    rw [State.complete, hr]
    rfl
  exact hlen ▸ memRead_of_buf_eq hbuf

end Sys2Proof.Machine
end

section
/-! PROOFS. The statement on a command's inputs (30_encoding.md, 40_command_engine.md). -/

namespace Sys2Proof.Proofs

open Sys2Proof Sys2Proof.Machine

/-- Settles O58: the completion takes what it writes from the outcome and the oracle's side, and both are functions of
the inputs. -/
theorem commandsReadOnlyTheirInputs : Obligations.CommandsReadOnlyTheirInputs := by
  intro i s s' t t' hsize hinfo hcrc hrng hentropy hdraws hsrc hkey hdst ht ht'
  have hagree : AgreeOnInputs i s s' :=
    ⟨hsize, hinfo, hcrc, hrng, ⟨hentropy, hdraws, rfl⟩, hsrc, hkey, hdst⟩
  obtain ⟨houtcome, hentropy', hdraws', hfailed⟩ := hagree.execBody
  obtain rfl := eq_complete_of_exec ht
  obtain rfl := eq_complete_of_exec ht'
  refine ⟨?_, ?_, ?_, ?_, ?_, ?_, fun herr => ?_⟩
  · rw [complete_err, complete_err, houtcome]
  · rw [complete_result, complete_result, houtcome]
  · rw [complete_crcState, complete_crcState, houtcome, hcrc]
  · rw [complete_rngFail, complete_rngFail, hrng, hfailed]
  · rw [complete_entropy, complete_entropy, hentropy']
  · rw [complete_draws, complete_draws, hdraws']
  · cases hw : writesDst i with
    | false => exact .inr rfl
    | true =>
      left
      rcases execBody_failsOrStoresOutlen hw s with ⟨e, w, hb⟩ | ⟨-, v, w, hlen, hb⟩
      · rw [hb] at herr
        exact absurd herr e.code_ne_zero
      · have hok : (execBody i s).outcome = .ok [(s.dstAddr.toNat, v)] (BitVec.ofNat 32 (outlen i s)) none := by
          rw [hb]; rfl
        rw [memRead_complete_of_ok hok hlen, memRead_complete_of_ok (houtcome.symm.trans hok) hlen]

end Sys2Proof.Proofs
end
